-- ==== Sys2Proof/Word.lean ====
section
/-! DEFINITION. Word.lean: the byte, registers that may hold no value (POISON), and the width of a number. -/

namespace Sys2Proof

/-- One byte of `IN`, of a header field or of a port word (00_scope.md R12). -/
abbrev Byte := BitVec 8

/-- A register of width given by `α` that may be POISON: "the mark of a register that holds no architecturally
defined value" (00_scope.md, glossary; R14). POISON is the spec's own reset value of the working header, the
header registers and the feed registers (10_state.md R27, R45, R46), and what an accept writes (R159). -/
inductive Poisonable (α : Type) where
  | poison
  | val (v : α)
  deriving DecidableEq, Repr

/-- Whether a register holds a value. -/
def Poisonable.isVal {α : Type} : Poisonable α → Bool
  | .poison => false
  | .val _ => true

/-- `bitlength(x)` is the least `k` with `x < 2^k` (10_state.md R26). -/
def bitlength (x : Nat) : Nat := if x = 0 then 0 else Nat.log2 x + 1

end Sys2Proof
end

