-- ==== Sys2Proof/Machine/Phase.lean ====
section
/-! DEFINITION. Machine/Phase.lean: the parser phases and their PHASE codes (30_encoding.md R96). -/

namespace Sys2Proof

/-- The phases of 30_encoding.md R96, in code order. -/
inductive Phase where
  | idle
  | pStart | pSid | pLen
  | pFixed | pScr | pPri | pDai | pCpy | pOoc
  | pPdf | pEscrf | pEsrf | pDsmf | pAcif | pCrcf | pExtf | pHdl
  | pPtsPfx | pPtsHi | pPtsM0 | pPtsMid | pPtsM1 | pPtsLo | pPtsM2
  | pDtsPfx | pDtsHi | pDtsM0 | pDtsMid | pDtsM1 | pDtsLo | pDtsM2
  | pExtchk | pPayload | pCommit
  deriving DecidableEq, Repr

/-- The PHASE codes of R96. -/
def Phase.code : Phase → BitVec 6
  | .idle    => 0x00
  | .pStart  => 0x01
  | .pSid    => 0x02
  | .pLen    => 0x03
  | .pFixed  => 0x04
  | .pScr    => 0x05
  | .pPri    => 0x06
  | .pDai    => 0x07
  | .pCpy    => 0x08
  | .pOoc    => 0x09
  | .pPdf    => 0x0A
  | .pEscrf  => 0x0B
  | .pEsrf   => 0x0C
  | .pDsmf   => 0x0D
  | .pAcif   => 0x0E
  | .pCrcf   => 0x0F
  | .pExtf   => 0x10
  | .pHdl    => 0x11
  | .pPtsPfx => 0x12
  | .pPtsHi  => 0x13
  | .pPtsM0  => 0x14
  | .pPtsMid => 0x15
  | .pPtsM1  => 0x16
  | .pPtsLo  => 0x17
  | .pPtsM2  => 0x18
  | .pDtsPfx => 0x19
  | .pDtsHi  => 0x1A
  | .pDtsM0  => 0x1B
  | .pDtsMid => 0x1C
  | .pDtsM1  => 0x1D
  | .pDtsLo  => 0x1E
  | .pDtsM2  => 0x1F
  | .pExtchk  => 0x20
  | .pPayload => 0x21
  | .pCommit  => 0x22

end Sys2Proof
end

