-- ==== Sys2Proof/Config.lean ====
section
/-! DEFINITION. Config.lean: the implementation parameters of 00_scope.md R6 to R10. They are fixed when the block is
built; the model carries them in the field `State.cfg`, which no step writes, so every statement about all states is a
statement about all parameters (notes/assumptions/2.md). -/

namespace Sys2Proof

/-- When the forbidden PTS_DTS_flags value ends a parse (00_scope.md R9, 90_conflicts.md C3). -/
inductive ForbiddenPolicy where
  | failFast
  | lateVerdict
  deriving DecidableEq, Repr

/-- `STREAM_ID_TABLE`: the eight named stream ids (00_scope.md R8). -/
structure StreamIdTable where
  programStreamMap       : Byte
  paddingStream          : Byte
  privateStream2         : Byte
  ecmStream              : Byte
  emmStream              : Byte
  programStreamDirectory : Byte
  dsmccStream            : Byte
  ituTH2221E             : Byte
  deriving DecidableEq, Repr

/-- The default values, "from general knowledge, not in source" (00_scope.md R8, 93_implementation_defined.md G1);
PRESUMED, notes/assumptions/18.md. -/
def StreamIdTable.standard : StreamIdTable :=
  { programStreamMap := 0xBC, paddingStream := 0xBE, privateStream2 := 0xBF, ecmStream := 0xF0, emmStream := 0xF1,
    programStreamDirectory := 0xFF, dsmccStream := 0xF2, ituTH2221E := 0xF8 }

/-- `NOHDR`, the ids without an optional header, in the order of 41_classifier.md R143. -/
def StreamIdTable.noHdr (t : StreamIdTable) : List Byte :=
  [t.programStreamMap, t.paddingStream, t.privateStream2, t.ecmStream, t.emmStream, t.programStreamDirectory,
   t.dsmccStream, t.ituTH2221E]

/-- The parameters R6 to R10. -/
structure Config where
  maxLen          : Nat              -- MAX_LEN (R6)
  readWidth       : Nat              -- READ_WIDTH, W of the source (R7)
  streamIds       : StreamIdTable    -- STREAM_ID_TABLE (R8)
  forbiddenPolicy : ForbiddenPolicy  -- FORBIDDEN_POLICY (R9)
  contValid       : Bool             -- CONT_VALID (R10)
  deriving DecidableEq, Repr

/-- The constraints of R7 (`READ_WIDTH >= 24`) and R8 ("the eight values are distinct"). -/
def Config.wf (c : Config) : Bool := decide (24 ≤ c.readWidth) && decide c.streamIds.noHdr.Nodup

/-- `LW`, the width of L, CONSUMED, FEED_OFFSET and FEED_LEN (10_state.md R26). -/
def Config.lw (c : Config) : Nat := bitlength c.maxLen

/-- `PW`, the width of POS and END_POS (10_state.md R26). -/
def Config.pw (c : Config) : Nat := bitlength (8 * c.maxLen)

/-- The parameters of `State.reset`: the defaults of R7 to R10, and for MAX_LEN, which R6 leaves open with no default,
the value the spec's own programs name (95_test_vectors.md P4, C4). DESIGN CHOICE, notes/assumptions/2.md: no
statement rests on it. -/
def Config.standard : Config :=
  { maxLen := 256, readWidth := 32, streamIds := StreamIdTable.standard, forbiddenPolicy := .failFast,
    contValid := true }

end Sys2Proof
end

