-- ==== Sys2Proof/Machine/Classifier.lean ====
section
/-! DEFINITION. Machine/Classifier.lean: the Stream Identity Classifier (41_classifier.md) and the stream-id map
(30_encoding.md R94): combinational functions of the 8-bit stream id and of STREAM_ID_TABLE. -/

namespace Sys2Proof

/-- `IsAudioStream(id) = ((id & 0xE0) = 0xC0)` (R140). -/
def isAudioStream (id : Byte) : Bool := (id &&& 0xE0) == 0xC0

/-- `IsVideoStream(id) = ((id & 0xF0) = 0xE0)` (R141). -/
def isVideoStream (id : Byte) : Bool := (id &&& 0xF0) == 0xE0

/-- `IsPaddingStream(id) = (id = STREAM_ID_TABLE.PaddingStream)` (R142). -/
def isPaddingStream (t : StreamIdTable) (id : Byte) : Bool := id == t.paddingStream

/-- `HasOptionalHeader(id) = not (id in NOHDR)` (R143). -/
def hasOptionalHeader (t : StreamIdTable) (id : Byte) : Bool := !(t.noHdr.contains id)

/-- The classes of the stream-id map (R94, R144). -/
inductive StreamClass where
  | psm | padding | priv2 | ecm | emm | dsmcc | h2221e | psd | audio | video | other
  deriving DecidableEq, Repr

/-- One row of the stream-id map: a value matches when `(id & mask) = pattern` (R94). -/
structure SidRow where
  cls     : StreamClass
  pattern : Byte
  mask    : Byte
  deriving DecidableEq, Repr

/-- The stream-id map, in the order its rows are tried (R94). -/
def streamIdMap (t : StreamIdTable) : List SidRow :=
  [ ⟨.psm,     t.programStreamMap,       0xFF⟩,
    ⟨.padding, t.paddingStream,          0xFF⟩,
    ⟨.priv2,   t.privateStream2,         0xFF⟩,
    ⟨.ecm,     t.ecmStream,              0xFF⟩,
    ⟨.emm,     t.emmStream,              0xFF⟩,
    ⟨.dsmcc,   t.dsmccStream,            0xFF⟩,
    ⟨.h2221e,  t.ituTH2221E,             0xFF⟩,
    ⟨.psd,     t.programStreamDirectory, 0xFF⟩,
    ⟨.audio,   0xC0,                     0xE0⟩,
    ⟨.video,   0xE0,                     0xF0⟩,
    ⟨.other,   0x00,                     0x00⟩ ]

/-- Whether a row of the map matches an id (R94). -/
def SidRow.matchesId (r : SidRow) (id : Byte) : Bool := (id &&& r.mask) == r.pattern

/-- `StreamClass(id)`: the class of the first row that `id` matches (R144); the last row matches every value. -/
def streamClass (t : StreamIdTable) (id : Byte) : StreamClass :=
  match (streamIdMap t).find? (fun r => r.matchesId id) with
  | some r => r.cls
  | none => .other

/-- The HasOptionalHeader column of the stream-id map (R94). -/
def StreamClass.hasOpt : StreamClass → Bool
  | .psm | .padding | .priv2 | .ecm | .emm | .dsmcc | .h2221e | .psd => false
  | .audio | .video | .other => true

/-- The padding column of the stream-id map (R94). -/
def StreamClass.isPad : StreamClass → Bool
  | .padding => true
  | .psm | .priv2 | .ecm | .emm | .dsmcc | .h2221e | .psd | .audio | .video | .other => false

/-- The column "path after P_LEN" of the stream-id map: the phase the class selects (R94). -/
def StreamClass.path (c : StreamClass) : Phase := if c.hasOpt then .pFixed else .pPayload

end Sys2Proof
end

