-- ==== Sys2Proof/Syntax.lean ====
section
/-! DEFINITION. Syntax.lean: one constructor per row of spec/opcode_table.json, in the table's order. -/

namespace Sys2Proof

/-- What PESP can be asked to do in one step: a command or a host-port action, a primitive of the Bit Reader, a
predicate of the classifier, a row of the stream-id map or of the PTS_DTS_flags table, or one parser phase. -/
inductive Instr where
  -- commands (30_encoding.md R80)
  | parseS (len : Nat)                 -- R160
  | parseC (len : Nat)                 -- R161
  -- host ports (60_exceptions.md R270)
  | inWrite (a : Nat) (b : Byte)       -- R61
  | regRead (n : BitVec 8)             -- R271
  | classify (id : Byte)               -- R145
  | reset                              -- R290
  -- Bit Reader primitives (R104)
  | readBit                            -- R123
  | readBits (n : Nat)                 -- R122
  | bytesLeft                          -- R124
  | current                            -- R125
  -- classifier predicates
  | isAudioStream (id : Byte)          -- R140
  | isVideoStream (id : Byte)          -- R141
  | isPaddingStream (id : Byte)        -- R142
  | hasOptionalHeader (id : Byte)      -- R143
  -- rows of the stream-id map (R94); a row with don't-care bits carries them
  | sidPsm | sidPadding | sidPriv2 | sidEcm | sidEmm | sidDsmcc | sidH2221e | sidPsd
  | sidAudio (low : BitVec 5)
  | sidVideo (low : BitVec 4)
  | sidOther (id : Byte)
  -- rows of the PTS_DTS_flags table (R86); `ext` are the six bits of the byte that the row's mask leaves out
  | pdfNone (ext : BitVec 6)
  | pdfForbidden (ext : BitVec 6)
  | pdfPts (ext : BitVec 6)
  | pdfPtsDts (ext : BitVec 6)
  -- phases (R96)
  | idle
  | pStart | pSid | pLen
  | pFixed | pScr | pPri | pDai | pCpy | pOoc
  | pPdf | pEscrf | pEsrf | pDsmf | pAcif | pCrcf | pExtf | pHdl
  | pPtsPfx | pPtsHi | pPtsM0 | pPtsMid | pPtsM1 | pPtsLo | pPtsM2
  | pDtsPfx | pDtsHi | pDtsM0 | pDtsMid | pDtsM1 | pDtsLo | pDtsM2
  | pExtchk
  | pPayloadPad                        -- R224
  | pPayloadFwd                        -- R225
  | pCommit
  | phaseReserved (code : BitVec 6)    -- R98
  deriving DecidableEq, Repr

end Sys2Proof
end

