-- ==== Sys2Proof/WellFormed.lean ====
section
/-! DEFINITION. WellFormed.lean: the operand ranges of each instruction, for given parameters. -/

namespace Sys2Proof

/-- The first-match class of a stream-id row: the map tries its rows top to bottom (30_encoding.md R94), so a byte
stands for a row only if no earlier row matches it. -/
def sidIs (c : Config) (id : Byte) (cls : StreamClass) : Bool := decide (streamClass c.streamIds id = cls)

/-- Whether an instruction's operands are in the ranges the spec gives them: `len` has LW bits (R80); an `InWrite`
address is any number (20_memory.md R61, notes/assumptions/4.md); `n` of `ReadBits` has the width of READ_WIDTH
(notes/assumptions/27.md); a stream-id row is the first that matches (R94); a reserved PHASE code is 0x23 to 0x3F
(R98). -/
def Instr.wf (c : Config) : Instr → Bool
  | .parseS len => decide (len < 2 ^ c.lw)
  | .parseC len => decide (len < 2 ^ c.lw)
  | .inWrite _ _ | .regRead _ | .classify _ | .reset => true
  | .readBit => true
  | .readBits n => decide (n < 2 ^ bitlength c.readWidth)
  | .bytesLeft | .current => true
  | .isAudioStream _ | .isVideoStream _ | .isPaddingStream _ | .hasOptionalHeader _ => true
  | .sidPsm => sidIs c c.streamIds.programStreamMap .psm
  | .sidPadding => sidIs c c.streamIds.paddingStream .padding
  | .sidPriv2 => sidIs c c.streamIds.privateStream2 .priv2
  | .sidEcm => sidIs c c.streamIds.ecmStream .ecm
  | .sidEmm => sidIs c c.streamIds.emmStream .emm
  | .sidDsmcc => sidIs c c.streamIds.dsmccStream .dsmcc
  | .sidH2221e => sidIs c c.streamIds.ituTH2221E .h2221e
  | .sidPsd => sidIs c c.streamIds.programStreamDirectory .psd
  | .sidAudio low => sidIs c (0b110#3 ++ low) .audio
  | .sidVideo low => sidIs c (0b1110#4 ++ low) .video
  | .sidOther id => sidIs c id .other
  | .pdfNone _ | .pdfForbidden _ | .pdfPts _ | .pdfPtsDts _ => true
  | .idle
  | .pStart | .pSid | .pLen
  | .pFixed | .pScr | .pPri | .pDai | .pCpy | .pOoc
  | .pPdf | .pEscrf | .pEsrf | .pDsmf | .pAcif | .pCrcf | .pExtf | .pHdl
  | .pPtsPfx | .pPtsHi | .pPtsM0 | .pPtsMid | .pPtsM1 | .pPtsLo | .pPtsM2
  | .pDtsPfx | .pDtsHi | .pDtsM0 | .pDtsMid | .pDtsM1 | .pDtsLo | .pDtsM2
  | .pExtchk | .pPayloadPad | .pPayloadFwd | .pCommit => true
  | .phaseReserved code => decide (0x23 ≤ code.toNat)

end Sys2Proof
end

