-- ==== Sys2Proof/Decode.lean ====
section
/-! DEFINITION. Decode.lean: the words on PESP's ports, their decoder, which is total and rejects by name, and after it
the encoder. A word is what arrives on ONE port; the spec's own selectors (30_encoding.md R80, R94, R96, R104) are the
word's first byte, numbered as opcode_table.json numbers them, and operands follow. The spec gives no layout beyond
the selectors: the operand bytes are a DESIGN CHOICE, notes/assumptions/3.md. -/

namespace Sys2Proof

/-- The ports and the internal selectors a word can arrive on: the formats of opcode_table.json, with a port of its own
for each host port and each predicate. -/
inductive Port where
  | command | inWrite | regRead | classify | reset
  | reader
  | isAudio | isVideo | isPadding | hasOptional
  | streamId | ptsDtsFlags
  | phase
  deriving DecidableEq, Repr

/-- The ports the host can drive (60_exceptions.md R270). -/
def Port.isHost : Port → Bool
  | .command | .inWrite | .regRead | .classify | .reset => true
  | .reader | .isAudio | .isVideo | .isPadding | .hasOptional | .streamId | .ptsDtsFlags | .phase => false

/-- The selectors inside PESP that no host can drive: "The host cannot issue them; only the parser phases use them"
(30_encoding.md R104, of the Bit Reader; notes/assumptions/8.md). -/
def Port.isUnit : Port → Bool
  | .reader | .isAudio | .isVideo | .isPadding | .hasOptional | .streamId | .ptsDtsFlags => true
  | .command | .inWrite | .regRead | .classify | .reset | .phase => false

/-- A word on a port: its bytes, the selector first. -/
structure PortWord where
  port  : Port
  bytes : List Byte
  deriving DecidableEq, Repr

/-- Why a word is no instruction. -/
inductive DecodeError where
  | wrongLength      -- the word has not the number of bytes its port's form has
  | reservedBits     -- a bit outside the selector is set
  | operandTooWide   -- the operand has a bit above its width (R80: `len` has LW bits)
  deriving DecidableEq, Repr

/-- The number of bytes an operand of `bits` bits takes in a word. -/
def operandBytes (bits : Nat) : Nat := (bits + 7) / 8

/-- `k` bytes of a number, the least significant first. -/
def leBytes : Nat → Nat → List Byte
  | 0, _ => []
  | k + 1, n => BitVec.ofNat 8 n :: leBytes k (n / 256)

/-- The number that bytes stand for, the least significant first. -/
def leNat : List Byte → Nat
  | [] => 0
  | b :: bs => b.toNat + 256 * leNat bs

/-- The number of bytes the number `n` takes where an operand of `bits` bits stands: those of the operand, and as many
more as `n` needs, so that no bit of `n` is dropped. -/
def operandFieldBytes (bits n : Nat) : Nat := max (operandBytes bits) (operandBytes (bitlength n))

/-- The bytes of the number `n` where an operand of `bits` bits stands. -/
def operandField (bits n : Nat) : List Byte := leBytes (operandFieldBytes bits n) n

/-- An operand of `bits` bits from the rest of a word. -/
def decodeOperand (bits : Nat) (bs : List Byte) : Except DecodeError Nat :=
  if bs.length ≠ operandBytes bits then .error .wrongLength
  else if 2 ^ bits ≤ leNat bs then .error .operandTooWide
  else .ok (leNat bs)

/-- A command: `start` is bit 0 of the first byte and alone tells the two commands apart (R80, R81); `len` follows. -/
def decodeCommand (c : Config) : List Byte → Except DecodeError Instr
  | [] => .error .wrongLength
  | sel :: rest =>
    match decodeOperand c.lw rest with
    | .error e => .error e
    | .ok len =>
      if sel = 1 then .ok (.parseS len) else if sel = 0 then .ok (.parseC len) else .error .reservedBits

/-- The address of an `InWrite`, any natural number: it takes the bytes of LW bits, and more only where it needs them.
The spec gives the address no width, and a write at or above MAX_LEN is a move of the host (R61, 60_exceptions.md R258):
DESIGN CHOICE, notes/assumptions/4.md. -/
def decodeAddress (c : Config) (bs : List Byte) : Except DecodeError Nat :=
  if bs.length = operandFieldBytes c.lw (leNat bs) then .ok (leNat bs) else .error .wrongLength

/-- An `InWrite(a, b)`: the byte `b`, then the address. -/
def decodeInWrite (c : Config) : List Byte → Except DecodeError Instr
  | [] => .error .wrongLength
  | b :: rest =>
    match decodeAddress c rest with
    | .error e => .error e
    | .ok a => .ok (.inWrite a b)

/-- A Bit Reader primitive: the 2-bit selector of 30_encoding.md R104; `ReadBits` carries `n`. The spec gives that
operand no width; the model's is the width of READ_WIDTH, so that a word with a wider `n` is no instruction, and `n`
beyond READ_WIDTH but within the width is the refusal ReaderWidth (40_bit_reader.md R128): DESIGN CHOICE,
notes/assumptions/27.md. -/
def decodeReader (c : Config) : List Byte → Except DecodeError Instr
  | [] => .error .wrongLength
  | sel :: rest =>
    match sel.toNat with
    | 0 => if rest = [] then .ok .readBit else .error .wrongLength
    | 1 =>
      match decodeOperand (bitlength c.readWidth) rest with
      | .error e => .error e
      | .ok n => .ok (.readBits n)
    | 2 => if rest = [] then .ok .bytesLeft else .error .wrongLength
    | 3 => if rest = [] then .ok .current else .error .wrongLength
    | _ => .error .reservedBits

/-- The row of the stream-id map an id selects: rows are tried top to bottom (R94). -/
def decodeStreamId (c : Config) (id : Byte) : Instr :=
  match streamClass c.streamIds id with
  | .psm => .sidPsm
  | .padding => .sidPadding
  | .priv2 => .sidPriv2
  | .ecm => .sidEcm
  | .emm => .sidEmm
  | .dsmcc => .sidDsmcc
  | .h2221e => .sidH2221e
  | .psd => .sidPsd
  | .audio => .sidAudio (id.extractLsb' 0 5)
  | .video => .sidVideo (id.extractLsb' 0 4)
  | .other => .sidOther id

/-- The row of the PTS_DTS_flags table a byte `IN[7]` selects: bits [7:6] (R86). -/
def decodePtsDtsFlags (b : Byte) : Instr :=
  match (b.extractLsb' 6 2).toNat with
  | 0 => .pdfNone (b.extractLsb' 0 6)
  | 1 => .pdfForbidden (b.extractLsb' 0 6)
  | 2 => .pdfPts (b.extractLsb' 0 6)
  | _ => .pdfPtsDts (b.extractLsb' 0 6)

/-- The phase a PHASE code stands for (R96); codes 0x23 to 0x3F are reserved (R98). P_PAYLOAD is its forwarding branch
here; the padding branch has the model's own mark in `decodePhase`. -/
def phaseInstr (code : BitVec 6) : Instr :=
  match code.toNat with
  | 0x00 => .idle
  | 0x01 => .pStart
  | 0x02 => .pSid
  | 0x03 => .pLen
  | 0x04 => .pFixed
  | 0x05 => .pScr
  | 0x06 => .pPri
  | 0x07 => .pDai
  | 0x08 => .pCpy
  | 0x09 => .pOoc
  | 0x0A => .pPdf
  | 0x0B => .pEscrf
  | 0x0C => .pEsrf
  | 0x0D => .pDsmf
  | 0x0E => .pAcif
  | 0x0F => .pCrcf
  | 0x10 => .pExtf
  | 0x11 => .pHdl
  | 0x12 => .pPtsPfx
  | 0x13 => .pPtsHi
  | 0x14 => .pPtsM0
  | 0x15 => .pPtsMid
  | 0x16 => .pPtsM1
  | 0x17 => .pPtsLo
  | 0x18 => .pPtsM2
  | 0x19 => .pDtsPfx
  | 0x1A => .pDtsHi
  | 0x1B => .pDtsM0
  | 0x1C => .pDtsMid
  | 0x1D => .pDtsM1
  | 0x1E => .pDtsLo
  | 0x1F => .pDtsM2
  | 0x20 => .pExtchk
  | 0x21 => .pPayloadFwd
  | 0x22 => .pCommit
  | _ => .phaseReserved code

/-- The byte that selects P_PAYLOAD's padding branch: PHASE code 0x21 with bit 6, the model's own mark (the two rows of
the table share the code; which branch runs is decided by the state, R224, R225). DESIGN CHOICE,
notes/assumptions/15.md. -/
def payloadPadByte : Byte := 0x61

/-- A phase: PHASE in bits [5:0] (R96), bit 6 the branch mark. -/
def decodePhase (b : Byte) : Except DecodeError Instr :=
  if b = payloadPadByte then .ok .pPayloadPad
  else if b.extractLsb' 6 2 ≠ 0 then .error .reservedBits
  else .ok (phaseInstr (b.extractLsb' 0 6))

/-- The one byte of a word that has exactly one. -/
def oneByte (k : Byte → Except DecodeError Instr) : List Byte → Except DecodeError Instr
  | [b] => k b
  | _ => .error .wrongLength

/-- The decoder: total on any port and bytes. -/
def decode (c : Config) (w : PortWord) : Except DecodeError Instr :=
  match w.port with
  | .command => decodeCommand c w.bytes
  | .inWrite => decodeInWrite c w.bytes
  | .regRead => oneByte (fun n => .ok (.regRead n)) w.bytes
  | .classify => oneByte (fun id => .ok (.classify id)) w.bytes
  | .reset => if w.bytes = [] then .ok .reset else .error .wrongLength
  | .reader => decodeReader c w.bytes
  | .isAudio => oneByte (fun id => .ok (.isAudioStream id)) w.bytes
  | .isVideo => oneByte (fun id => .ok (.isVideoStream id)) w.bytes
  | .isPadding => oneByte (fun id => .ok (.isPaddingStream id)) w.bytes
  | .hasOptional => oneByte (fun id => .ok (.hasOptionalHeader id)) w.bytes
  | .streamId => oneByte (fun id => .ok (decodeStreamId c id)) w.bytes
  | .ptsDtsFlags => oneByte (fun b => .ok (decodePtsDtsFlags b)) w.bytes
  | .phase => oneByte decodePhase w.bytes

/-- A command word: `start` first, then `len` (R80). A `len` of more than LW bits keeps its bits and so is no command's
(notes/assumptions/28.md). -/
def commandWord (c : Config) (start : Byte) (len : Nat) : PortWord := ⟨.command, start :: operandField c.lw len⟩

/-- A word of one PHASE code (R96). -/
def phaseCodeWord (p : Phase) : PortWord := ⟨.phase, [p.code.setWidth 8]⟩

/-- The encoder, from the same tables of the spec. It drops no bit of an operand, well formed or not. -/
def encode (c : Config) : Instr → PortWord
  | .parseS len => commandWord c 1 len
  | .parseC len => commandWord c 0 len
  | .inWrite a b => ⟨.inWrite, b :: operandField c.lw a⟩
  | .regRead n => ⟨.regRead, [n]⟩
  | .classify id => ⟨.classify, [id]⟩
  | .reset => ⟨.reset, []⟩
  | .readBit => ⟨.reader, [0]⟩
  | .readBits n => ⟨.reader, 1 :: operandField (bitlength c.readWidth) n⟩
  | .bytesLeft => ⟨.reader, [2]⟩
  | .current => ⟨.reader, [3]⟩
  | .isAudioStream id => ⟨.isAudio, [id]⟩
  | .isVideoStream id => ⟨.isVideo, [id]⟩
  | .isPaddingStream id => ⟨.isPadding, [id]⟩
  | .hasOptionalHeader id => ⟨.hasOptional, [id]⟩
  | .sidPsm => ⟨.streamId, [c.streamIds.programStreamMap]⟩
  | .sidPadding => ⟨.streamId, [c.streamIds.paddingStream]⟩
  | .sidPriv2 => ⟨.streamId, [c.streamIds.privateStream2]⟩
  | .sidEcm => ⟨.streamId, [c.streamIds.ecmStream]⟩
  | .sidEmm => ⟨.streamId, [c.streamIds.emmStream]⟩
  | .sidDsmcc => ⟨.streamId, [c.streamIds.dsmccStream]⟩
  | .sidH2221e => ⟨.streamId, [c.streamIds.ituTH2221E]⟩
  | .sidPsd => ⟨.streamId, [c.streamIds.programStreamDirectory]⟩
  | .sidAudio low => ⟨.streamId, [0b110#3 ++ low]⟩
  | .sidVideo low => ⟨.streamId, [0b1110#4 ++ low]⟩
  | .sidOther id => ⟨.streamId, [id]⟩
  | .pdfNone ext => ⟨.ptsDtsFlags, [0b00#2 ++ ext]⟩
  | .pdfForbidden ext => ⟨.ptsDtsFlags, [0b01#2 ++ ext]⟩
  | .pdfPts ext => ⟨.ptsDtsFlags, [0b10#2 ++ ext]⟩
  | .pdfPtsDts ext => ⟨.ptsDtsFlags, [0b11#2 ++ ext]⟩
  | .idle => phaseCodeWord .idle
  | .pStart => phaseCodeWord .pStart
  | .pSid => phaseCodeWord .pSid
  | .pLen => phaseCodeWord .pLen
  | .pFixed => phaseCodeWord .pFixed
  | .pScr => phaseCodeWord .pScr
  | .pPri => phaseCodeWord .pPri
  | .pDai => phaseCodeWord .pDai
  | .pCpy => phaseCodeWord .pCpy
  | .pOoc => phaseCodeWord .pOoc
  | .pPdf => phaseCodeWord .pPdf
  | .pEscrf => phaseCodeWord .pEscrf
  | .pEsrf => phaseCodeWord .pEsrf
  | .pDsmf => phaseCodeWord .pDsmf
  | .pAcif => phaseCodeWord .pAcif
  | .pCrcf => phaseCodeWord .pCrcf
  | .pExtf => phaseCodeWord .pExtf
  | .pHdl => phaseCodeWord .pHdl
  | .pPtsPfx => phaseCodeWord .pPtsPfx
  | .pPtsHi => phaseCodeWord .pPtsHi
  | .pPtsM0 => phaseCodeWord .pPtsM0
  | .pPtsMid => phaseCodeWord .pPtsMid
  | .pPtsM1 => phaseCodeWord .pPtsM1
  | .pPtsLo => phaseCodeWord .pPtsLo
  | .pPtsM2 => phaseCodeWord .pPtsM2
  | .pDtsPfx => phaseCodeWord .pDtsPfx
  | .pDtsHi => phaseCodeWord .pDtsHi
  | .pDtsM0 => phaseCodeWord .pDtsM0
  | .pDtsMid => phaseCodeWord .pDtsMid
  | .pDtsM1 => phaseCodeWord .pDtsM1
  | .pDtsLo => phaseCodeWord .pDtsLo
  | .pDtsM2 => phaseCodeWord .pDtsM2
  | .pExtchk => phaseCodeWord .pExtchk
  | .pPayloadPad => ⟨.phase, [payloadPadByte]⟩
  | .pPayloadFwd => phaseCodeWord .pPayload
  | .pCommit => phaseCodeWord .pCommit
  | .phaseReserved code => ⟨.phase, [code.setWidth 8]⟩

/-- The port a word of opcode_table.json belongs to, when only its bits are known. The table's formats are separate
selector spaces and share words (PARSE.C, ReadBit, PDF.NONE and IDLE are all 0); this reading prefers a command, then
the reader, the phase codes, the predicates, the stream-id rows, and the flags for what is left. Rows of more than one
byte are phases whose column "reads" the reader took for a bit field (98_reader.md). DESIGN CHOICE,
notes/assumptions/5.md. -/
def tablePort (nbits w : Nat) : Port :=
  if nbits = 0 then .reset
  else if 8 < nbits then .phase
  else if w < 2 then .command
  else if w < 4 then .reader
  else if w < 0x40 then .phase
  else if w = 0xBE then .isPadding
  else if isAudioStream (BitVec.ofNat 8 w) then .isAudio
  else if isVideoStream (BitVec.ofNat 8 w) then .isVideo
  else if w < 0xBC then .ptsDtsFlags
  else .streamId

/-- A table word laid out as its port stores it: the selector byte, and operand bytes of zeros. -/
def tableWord (c : Config) (nbits w : Nat) : PortWord :=
  match tablePort nbits w with
  | .reset => ⟨.reset, []⟩
  | .command => commandWord c (BitVec.ofNat 8 w) 0
  | .phase => ⟨.phase, [BitVec.ofNat 8 (w % 64)]⟩
  | p => ⟨p, [BitVec.ofNat 8 w]⟩

/-- The instruction the decoder reads from a table word, under the default parameters. -/
def decodeTableWord (nbits w : Nat) : Option Instr :=
  match decode Config.standard (tableWord Config.standard nbits w) with
  | .ok i => some i
  | .error _ => none

end Sys2Proof
end

