-- ==== Sys2Proof/Machine/State.lean ====
section
/-! DEFINITION. Machine/State.lean: everything the spec gives PESP to hold (10_state.md), the reasons a step can stop,
and the machine right after reset (70_reset_and_hazards.md R290). -/

namespace Sys2Proof.Machine

/-- STATUS.RESULT, the result kind (30_encoding.md R100). -/
inductive Result where
  | ok | malformed | unsupported | truncated
  deriving DecidableEq, Repr

/-- STATUS.CAUSE, the failure cause (30_encoding.md R101). -/
inductive Cause where
  | none
  | badStartCode | badFixedBits | forbiddenPtsDts
  | badPtsPrefix | badPtsMarker | badDtsPrefix | badDtsMarker
  | extFlagSet
  | shortField | shortPadding
  deriving DecidableEq, Repr

/-- The fields of STATUS (10_state.md R30). Bits [15:14] and [31:26] are reserved: "They read 0 and are never written"
(R41), so nothing holds them; `Status.word` (Flags.lean) lays the fields out. -/
structure Status where
  busy       : Bool
  done       : Bool
  result     : Result
  valid      : Bool
  hdrPresent : Bool
  optPresent : Bool
  ptsPresent : Bool
  dtsPresent : Bool
  fed        : Bool
  isAudio    : Bool
  isVideo    : Bool
  isPadding  : Bool
  hasOpt     : Bool
  cause      : Cause
  failPhase  : BitVec 6
  deriving DecidableEq, Repr

/-- STATUS = 0x00000000. -/
def Status.zero : Status :=
  { busy := false, done := false, result := .ok, valid := false, hdrPresent := false, optPresent := false,
    ptsPresent := false, dtsPresent := false, fed := false, isAudio := false, isVideo := false, isPadding := false,
    hasOpt := false, cause := .none, failPhase := 0 }

/-- The sticky record of host-protocol violations (10_state.md R42); bits [31:3] read 0. -/
structure FaultReg where
  cmdWhileBusy     : Bool
  lenOverMax       : Bool
  inWriteWhileBusy : Bool
  deriving DecidableEq, Repr

/-- FAULT = 0x00000000. -/
def FaultReg.zero : FaultReg := { cmdWhileBusy := false, lenOverMax := false, inWriteWhileBusy := false }

/-- The working header `Wk`, hidden from the host (10_state.md R27, R28). -/
structure Wk where
  startCode    : Poisonable (BitVec 24)
  streamId     : Poisonable (BitVec 8)
  packetLength : Poisonable (BitVec 16)
  fixed        : Poisonable (BitVec 2)
  scrambling   : Poisonable (BitVec 2)
  priority     : Poisonable (BitVec 1)
  dai          : Poisonable (BitVec 1)
  copyright    : Poisonable (BitVec 1)
  original     : Poisonable (BitVec 1)
  ptsDtsFlags  : Poisonable (BitVec 2)
  escrFlag     : Poisonable (BitVec 1)
  esRateFlag   : Poisonable (BitVec 1)
  dsmTrickFlag : Poisonable (BitVec 1)
  aciFlag      : Poisonable (BitVec 1)
  crcFlag      : Poisonable (BitVec 1)
  extFlag      : Poisonable (BitVec 1)
  hdl          : Poisonable (BitVec 8)
  ptsHi        : Poisonable (BitVec 3)
  ptsMid       : Poisonable (BitVec 15)
  ptsLo        : Poisonable (BitVec 15)
  pts          : Poisonable (BitVec 33)
  dtsHi        : Poisonable (BitVec 3)
  dtsMid       : Poisonable (BitVec 15)
  dtsLo        : Poisonable (BitVec 15)
  dts          : Poisonable (BitVec 33)
  deriving DecidableEq, Repr

/-- Every field POISON: after reset and after a command accept (10_state.md R27). -/
def Wk.poison : Wk :=
  { startCode := .poison, streamId := .poison, packetLength := .poison, fixed := .poison, scrambling := .poison,
    priority := .poison, dai := .poison, copyright := .poison, original := .poison, ptsDtsFlags := .poison,
    escrFlag := .poison, esRateFlag := .poison, dsmTrickFlag := .poison, aciFlag := .poison, crcFlag := .poison,
    extFlag := .poison, hdl := .poison, ptsHi := .poison, ptsMid := .poison, ptsLo := .poison, pts := .poison,
    dtsHi := .poison, dtsMid := .poison, dtsLo := .poison, dts := .poison }

/-- The committed header registers HDR_* (10_state.md R47 to R51). -/
structure Hdr where
  startCode    : Poisonable (BitVec 24)
  streamId     : Poisonable (BitVec 8)
  packetLength : Poisonable (BitVec 16)
  flags1       : Poisonable (BitVec 8)
  flags2       : Poisonable (BitVec 8)
  hdl          : Poisonable (BitVec 8)
  pts          : Poisonable (BitVec 33)
  dts          : Poisonable (BitVec 33)
  deriving DecidableEq, Repr

/-- Every HDR_* register POISON: after reset and after a command accept (10_state.md R46). -/
def Hdr.poison : Hdr :=
  { startCode := .poison, streamId := .poison, packetLength := .poison, flags1 := .poison, flags2 := .poison,
    hdl := .poison, pts := .poison, dts := .poison }

/-- The input buffer `IN` as (address, byte) pairs. An address not listed is POISON, "a byte the host has not written
since reset" (10_state.md R52), so that reading it is the model fault `InUnwritten` (20_memory.md R63). -/
abbrev Memory := List Host.Cell

/-- The canonical form: addresses strictly rising. (An unlisted address reads as no byte at all, so no entry can equal
what it reads as.) -/
abbrev Memory.wf (m : Memory) : Prop := m.Pairwise (fun x y => x.1 < y.1)

/-- The fields that follow the flag cluster, by PTS_DTS_flags (30_encoding.md R86). -/
inductive TimestampFields where
  | noTimestamp
  | pts
  | ptsDts
  deriving DecidableEq, Repr

/-- What the last host-port read or unit operation returned: the model's own latch, standing for the value on the
port's output wires. DESIGN CHOICE, notes/assumptions/7.md. -/
inductive Output where
  | none
  | register (v : BitVec 64)                                    -- RegRead (R271)
  | bits (v : Nat)                                              -- ReadBits (R122)
  | bit (b : Bool)                                              -- ReadBit and the predicates (R123, R140 to R143)
  | count (k : Nat)                                             -- BytesLeft, Current (R124, R125)
  | classified (audio video padding hasOpt : Bool) (cls : StreamClass)   -- CLASSIFY (R145)
  | streamRow (cls : StreamClass) (hasOpt padding : Bool) (path : Phase) -- a row of the stream-id map (R94)
  | flagsRow (fields : TimestampFields) (forbidden : Bool)      -- a row of the PTS_DTS_flags table (R86)
  deriving DecidableEq, Repr

/-- Whose move is next: a turn of PESP (one phase step), a host action at a port, or an operation of an internal unit,
which no host can issue. The model's own. DESIGN CHOICE, notes/assumptions/1.md and 8.md. -/
inductive Turn where
  | pesp
  | host (w : PortWord)
  | unit (w : PortWord)
  deriving DecidableEq, Repr

/-- PESP's state: 10_state.md R22 to R53 in its order, then the model's own `turns` and `out`; `cfg` are the parameters
of 00_scope.md R6 to R10, which no step writes (notes/assumptions/2.md). POS, END_POS, L and the registers of width LW
are natural numbers: "Every value these registers take fits, so none of them wraps" (R26; notes/assumptions/24.md). -/
structure State where
  cfg        : Config
  phase      : BitVec 6                 -- PHASE (R22)
  pos        : Nat                      -- POS (R23)
  cmdStart   : Bool                     -- CMD_START (R24)
  len        : Nat                      -- L, CMD_LEN (R25)
  wk         : Wk                       -- Wk (R27)
  status     : Status                   -- STATUS (R30)
  faultReg   : FaultReg                 -- FAULT (R42)
  endPos     : Nat                      -- END_POS (R43)
  consumed   : Poisonable Nat           -- CONSUMED (R44)
  feedOffset : Poisonable Nat           -- FEED_OFFSET (R45)
  feedLen    : Poisonable Nat           -- FEED_LEN (R45)
  hdr        : Hdr                      -- HDR_* (R46 to R51)
  inBuf      : Memory                   -- IN (R52)
  sinkLog    : List (List Byte)         -- SINK_LOG (R53), oldest event first
  turns      : List Turn
  out        : Output
  deriving DecidableEq, Repr

/-- The reset action: every state element at the value of 10_state.md section 7 (R290), for given parameters. -/
def State.resetOf (c : Config) : State :=
  { cfg := c, phase := Phase.idle.code, pos := 0, cmdStart := false, len := 0, wk := Wk.poison, status := Status.zero,
    faultReg := FaultReg.zero, endPos := 0, consumed := .val 0, feedOffset := .poison, feedLen := .poison,
    hdr := Hdr.poison, inBuf := [], sinkLog := [], turns := [], out := .none }

/-- The machine right after reset, with the default parameters (notes/assumptions/2.md) and no host action pending. -/
def State.reset : State := State.resetOf Config.standard

/-- The names of the registers and fields that can be POISON, for the fault `readPoison`. -/
inductive RegName where
  | wkStartCode | wkStreamId | wkPacketLength
  | wkFixed | wkScrambling | wkPriority | wkDai | wkCopyright | wkOriginal
  | wkPtsDtsFlags | wkEscrFlag | wkEsRateFlag | wkDsmTrickFlag | wkAciFlag | wkCrcFlag | wkExtFlag | wkHdl
  | wkPtsHi | wkPtsMid | wkPtsLo | wkPts | wkDtsHi | wkDtsMid | wkDtsLo | wkDts
  | consumed | feedOffset | feedLen
  | hdrStartCode | hdrStreamId | hdrPacketLength | hdrFlags1 | hdrFlags2 | hdrHdl | hdrPts | hdrDts
  deriving DecidableEq, Repr

/-- The model faults of 60_exceptions.md R259: "states a model must treat as faulted: never final, never cleared".
Each is safe: the model stops where the hardware returns an unspecified value, ignores the action, or never comes. -/
inductive Fault where
  /-- Raised by RegRead of a POISON register (R29, 60_exceptions.md R259 and R271, 70_reset_and_hazards.md R292 and R296;
  "the move ends in … a `ReadPoison` fault", R270), and by a phase that reads a POISON register ("reading it is the model
  fault `ReadPoison`", 00_scope.md R14), which no run from reset reaches. POISON is the spec's own reset value. Safe. -/
  | readPoison (r : RegName)
  /-- Raised by a read of a byte of `IN` never written since reset (20_memory.md R63). Safe. -/
  | inUnwritten (a : Nat)
  /-- Raised by a step that finds PHASE holding a reserved code (30_encoding.md R98). Safe; unreachable. -/
  | badPhase (code : BitVec 6)
  /-- Raised by `Current()` off a byte boundary (40_bit_reader.md R125). Safe; unreachable in a parse. -/
  | notByteAligned
  /-- Raised by `InWrite(a, b)` with `a >= MAX_LEN`: HostProtocol(IN_ADDR) (20_memory.md R61, 60_exceptions.md R258).
  Safe: the hardware ignores the write. -/
  | hostProtocolInAddr (a : Nat)
  deriving DecidableEq, Repr

/-- Why a step has no meaning. -/
inductive Refusal where
  /-- Raised by exec for an instruction that has no meaning yet. Safe. -/
  | notModelled (mnemonic : String)
  /-- Raised by `ReadBits(n)` with n = 0 or n > READ_WIDTH: the refusal ReaderWidth (40_bit_reader.md R128). Safe;
  unreachable from a command. -/
  | readerWidth (n : Nat)
  /-- Raised by the fetch when the word on a port is no instruction. Safe. -/
  | undecodable (e : DecodeError)
  /-- Raised by the fetch when the host drives an internal selector, which it cannot (30_encoding.md R104). Safe. -/
  | notHostPort (p : Port)
  /-- Raised by the fetch when a unit operation names a host port or the PHASE register. Safe. -/
  | notUnitPort (p : Port)
  deriving DecidableEq, Repr

/-- The outcome of an instruction. -/
abbrev Out := Host.Outcome State Fault Refusal

end Sys2Proof.Machine
end

