-- ==== Sys2Proof/Machine/Flags.lean ====
section
/-! DEFINITION. Machine/Flags.lean: the codes and words of STATUS and FAULT (10_state.md R30, R42; 30_encoding.md R100,
R101), the flag bytes of the header (R48, R49), and the presence and class bits a commit writes (R36, R37, R39). -/

namespace Sys2Proof.Machine

/-- RESULT codes (R100). -/
def Result.code : Result → BitVec 2
  | .ok => 0
  | .malformed => 1
  | .unsupported => 2
  | .truncated => 3

/-- CAUSE codes (R101). -/
def Cause.code : Cause → BitVec 4
  | .none => 0
  | .badStartCode => 1
  | .badFixedBits => 2
  | .forbiddenPtsDts => 3
  | .badPtsPrefix => 4
  | .badPtsMarker => 5
  | .badDtsPrefix => 6
  | .badDtsMarker => 7
  | .extFlagSet => 8
  | .shortField => 9
  | .shortPadding => 10

/-- The STATUS word, most significant field first (R30); the reserved bits [31:26] and [15:14] are 0 (R41). -/
def Status.word (s : Status) : BitVec 32 :=
  0#6 ++ s.failPhase ++ s.cause.code ++ 0#2
    ++ BitVec.ofBool s.hasOpt ++ BitVec.ofBool s.isPadding ++ BitVec.ofBool s.isVideo ++ BitVec.ofBool s.isAudio
    ++ BitVec.ofBool s.fed ++ BitVec.ofBool s.dtsPresent ++ BitVec.ofBool s.ptsPresent ++ BitVec.ofBool s.optPresent
    ++ BitVec.ofBool s.hdrPresent ++ BitVec.ofBool s.valid ++ s.result.code
    ++ BitVec.ofBool s.done ++ BitVec.ofBool s.busy

/-- What a read of STATUS returns. "While DONE = 0, the fields RESULT, VALID, HDR_PRESENT, OPT_PRESENT, PTS_PRESENT,
DTS_PRESENT, FED, the class bits, CAUSE and FAIL_PHASE all read 0" (R32), FED too, which the forwarding phase has
already set by then (R38): DEDUCED, notes/assumptions/14.md. -/
def Status.readWord (s : Status) : BitVec 32 :=
  if s.done then s.word else ({ Status.zero with busy := s.busy }).word

/-- The FAULT word; bits [31:3] read 0 (R42). -/
def FaultReg.word (f : FaultReg) : BitVec 32 :=
  0#29 ++ BitVec.ofBool f.inWriteWhileBusy ++ BitVec.ofBool f.lenOverMax ++ BitVec.ofBool f.cmdWhileBusy

/-- The value of a register, or the name of the register that is POISON (00_scope.md R14). -/
def valueOf {α : Type} (r : RegName) : Poisonable α → Except RegName α
  | .poison => .error r
  | .val v => .ok v

/-- The first byte of the optional header (R48):
`Wk.fixed ++ Wk.scrambling ++ Wk.priority ++ Wk.dai ++ Wk.copyright ++ Wk.original`. -/
def Wk.flags1 (w : Wk) : Except RegName Byte := do
  let fixed ← valueOf .wkFixed w.fixed
  let scrambling ← valueOf .wkScrambling w.scrambling
  let priority ← valueOf .wkPriority w.priority
  let dai ← valueOf .wkDai w.dai
  let copyright ← valueOf .wkCopyright w.copyright
  let original ← valueOf .wkOriginal w.original
  pure (fixed ++ scrambling ++ priority ++ dai ++ copyright ++ original)

/-- The six extension flags, ESCR at bit 5 to the extension flag at bit 0 (R49). -/
def Wk.extFlags (w : Wk) : Except RegName (BitVec 6) := do
  let escr ← valueOf .wkEscrFlag w.escrFlag
  let esRate ← valueOf .wkEsRateFlag w.esRateFlag
  let dsmTrick ← valueOf .wkDsmTrickFlag w.dsmTrickFlag
  let aci ← valueOf .wkAciFlag w.aciFlag
  let crc ← valueOf .wkCrcFlag w.crcFlag
  let ext ← valueOf .wkExtFlag w.extFlag
  pure (escr ++ esRate ++ dsmTrick ++ aci ++ crc ++ ext)

/-- The second byte of the optional header (R49): `Wk.pts_dts_flags` and the six extension flags. -/
def Wk.flags2 (w : Wk) : Except RegName Byte := do
  let flags ← valueOf .wkPtsDtsFlags w.ptsDtsFlags
  let ext ← w.extFlags
  pure (flags ++ ext)

/-- The fields that follow, by PTS_DTS_flags (30_encoding.md R86): a PTS for 0b10 and 0b11, a DTS for 0b11. -/
def timestampFields (flags : BitVec 2) : TimestampFields :=
  if flags = 0b10 then .pts else if flags = 0b11 then .ptsDts else .noTimestamp

/-- Whether a PTS field follows. -/
def TimestampFields.hasPts : TimestampFields → Bool
  | .noTimestamp => false
  | .pts => true
  | .ptsDts => true

/-- Whether a DTS field follows. -/
def TimestampFields.hasDts : TimestampFields → Bool
  | .noTimestamp => false
  | .pts => false
  | .ptsDts => true

/-- The header registers a successful start parse commits, and the fields that follow its flag cluster, `noTimestamp`
where there is no optional header (60_exceptions.md R256). Registers are read in the order of R256. -/
structure HeaderCommit where
  hdr    : Hdr
  id     : Byte
  hasOpt : Bool
  fields : TimestampFields
  deriving DecidableEq, Repr

/-- The part of `Terminate(OK, NONE)` that reads `Wk` (R256, R47 to R51). -/
def commitHeader (t : StreamIdTable) (w : Wk) : Except RegName HeaderCommit := do
  let startCode ← valueOf .wkStartCode w.startCode
  let id ← valueOf .wkStreamId w.streamId
  let packetLength ← valueOf .wkPacketLength w.packetLength
  let base : Hdr :=
    { Hdr.poison with startCode := .val startCode, streamId := .val id, packetLength := .val packetLength }
  if hasOptionalHeader t id then
    let flags1 ← w.flags1
    let flags2 ← w.flags2
    let hdl ← valueOf .wkHdl w.hdl
    let flags ← valueOf .wkPtsDtsFlags w.ptsDtsFlags
    let fields := timestampFields flags
    let pts : Poisonable (BitVec 33) ← if fields.hasPts then (valueOf .wkPts w.pts).map .val else pure .poison
    let dts : Poisonable (BitVec 33) ← if fields.hasDts then (valueOf .wkDts w.dts).map .val else pure .poison
    pure { hdr := { base with flags1 := .val flags1, flags2 := .val flags2, hdl := .val hdl, pts := pts, dts := dts },
           id := id, hasOpt := true, fields := fields }
  else
    pure { hdr := base, id := id, hasOpt := false, fields := .noTimestamp }

/-- STATUS after a committed header: the presence bits (R35 to R37) and the class bits (R39). -/
def Status.withHeader (t : StreamIdTable) (s : Status) (h : HeaderCommit) : Status :=
  { s with
    hdrPresent := true, optPresent := h.hasOpt, ptsPresent := h.fields.hasPts, dtsPresent := h.fields.hasDts,
    isAudio := isAudioStream h.id, isVideo := isVideoStream h.id, isPadding := isPaddingStream t h.id,
    hasOpt := hasOptionalHeader t h.id }

end Sys2Proof.Machine
end

