-- ==== Sys2Proof/Machine/Ops.lean ====
section
/-! DEFINITION. Machine/Ops.lean: the named operations every meaning is written over: the input buffer (20_memory.md),
the Bit Reader (40_bit_reader.md), the sink (43_payload_result.md R226), the accept of a command (42_header_parser.md
R159), and `Terminate`, "PESP's only analogue of trap entry" (60_exceptions.md R256). There is no return from it:
"The next command is the only way to continue" (R260). -/

namespace Sys2Proof.Machine

/-! ## Updates of the state -/

/-- `phase <- P` (00_scope.md R14). -/
def State.goto (s : State) (p : Phase) : State := { s with phase := p.code }

/-- `POS <- POS + n` (10_state.md R23). -/
def State.advance (s : State) (n : Nat) : State := { s with pos := s.pos + n }

/-- The state with a value on a port's output (notes/assumptions/7.md). -/
def State.answer (s : State) (o : Output) : State := { s with out := o }

/-- The state with the working header written. -/
def State.setWk (s : State) (w : Wk) : State := { s with wk := w }

/-! ## The input buffer -/

/-- `IN[a]`, POISON where the host has not written since reset (10_state.md R52). -/
def Memory.read : Memory → Nat → Poisonable Byte
  | [], _ => .poison
  | (k, b) :: m, a => if k = a then .val b else Memory.read m a

/-- `IN[a] <- b`, keeping the canonical form (20_memory.md R61). -/
def Memory.write : Memory → Nat → Byte → Memory
  | [], a, b => [(a, b)]
  | (k, c) :: m, a, b =>
    if a < k then (a, b) :: (k, c) :: m
    else if a = k then (a, b) :: m
    else (k, c) :: Memory.write m a b

/-- Bit `7 - (i mod 8)` of a byte, for stream bit `i`: most significant first (00_scope.md R12, 20_memory.md R64). -/
def streamBitOf (b : Byte) (i : Nat) : Bool := b.getLsbD (7 - i % 8)

/-- The bytes `IN[o .. o+k-1]` in order, or the first address that is POISON. -/
def Memory.range (m : Memory) : Nat → Nat → Except Nat (List Byte)
  | _, 0 => .ok []
  | o, k + 1 =>
    match Memory.read m o with
    | .poison => .error o
    | .val b =>
      match Memory.range m (o + 1) k with
      | .error a => .error a
      | .ok bs => .ok (b :: bs)

/-! ## The Bit Reader -/

/-- `available(n)`: `8*L - POS >= n` (40_bit_reader.md R121). -/
def available (n : Nat) (s : State) : Bool := decide (n ≤ 8 * s.len - s.pos)

/-- The loop of `ReadBits` (R122): `n` bits from bit position `i` on, after the value `v`; the first bit read becomes
the most significant. The error is the first address that is POISON. -/
def Memory.bits (m : Memory) : Nat → Nat → Nat → Except Nat Nat
  | 0, _, v => .ok v
  | n + 1, i, v =>
    match Memory.read m (i / 8) with
    | .poison => .error (i / 8)
    | .val b => Memory.bits m n (i + 1) (2 * v + (streamBitOf b i).toNat)

/-- What a read of the Bit Reader ends in. -/
inductive ReadResult where
  | value (v : Nat) (s : State)   -- the value, and the state with POS moved on
  | short                         -- fewer bits remain: nothing consumed (R121)
  | unwritten (a : Nat)           -- the model fault InUnwritten (20_memory.md R63)
  | badWidth                      -- the refusal ReaderWidth (R128)
  deriving DecidableEq, Repr

/-- `ReadBits(n)` (R122): the width, then the availability of the whole field, then the bits. -/
def readBits (n : Nat) (s : State) : ReadResult :=
  if n = 0 ∨ s.cfg.readWidth < n then .badWidth
  else if available n s then
    match Memory.bits s.inBuf n s.pos 0 with
    | .ok v => .value v (s.advance n)
    | .error a => .unwritten a
  else .short

/-- `BytesLeft()` (R124). -/
def bytesLeft (s : State) : Nat := (8 * s.len - s.pos) / 8

/-- `Current()`, or none off a byte boundary (R125). -/
def currentByte (s : State) : Option Nat := if s.pos % 8 = 0 then some (s.pos / 8) else none

/-! ## Registers that may be POISON -/

/-- Reads a register; "reading it is the model fault `ReadPoison`" if it is POISON (00_scope.md R14). DEDUCED for the
parser's own reads, notes/assumptions/11.md. -/
def needs {α : Type} (r : RegName) (v : Poisonable α) (k : α → Out) : Out :=
  match v with
  | .poison => .fault (.readPoison r)
  | .val x => k x

/-! ## The sink -/

/-- `Emit FeedData(bytes)`: one event appended to SINK_LOG, by value (43_payload_result.md R226). -/
def State.emit (s : State) (bytes : List Byte) : State := { s with sinkLog := s.sinkLog ++ [bytes] }

/-! ## Accepting a command -/

/-- `Accept(start, len)` (42_header_parser.md R159). -/
def accept (start : Bool) (len : Nat) (s : State) : State :=
  { s with
    cmdStart := start, len := len, pos := 0, wk := Wk.poison, hdr := Hdr.poison,
    status := { Status.zero with busy := true },
    endPos := 0, consumed := .poison, feedOffset := .poison, feedLen := .poison,
    phase := (if start then Phase.pStart else Phase.pPayload).code }

/-- A command on the command port (R159): ignored but for a FAULT bit while BUSY or with `len > MAX_LEN`, the first of
the two where both hold. -/
def command (start : Bool) (len : Nat) (s : State) : Out :=
  if s.status.busy then .next { s with faultReg := { s.faultReg with cmdWhileBusy := true } }
  else if s.cfg.maxLen < len then .next { s with faultReg := { s.faultReg with lenOverMax := true } }
  else .next (accept start len s)

/-! ## Terminate -/

/-- The writes every termination shares (R256): END_POS, RESULT, CAUSE, FAIL_PHASE, VALID, BUSY, DONE, PHASE. FED and
the feed registers keep what P_PAYLOAD wrote. -/
def endParse (r : Result) (c : Cause) (failPhase : BitVec 6) (valid : Bool) (s : State) : State :=
  { s with
    endPos := s.pos,
    status := { s.status with
      result := r, cause := c, failPhase := failPhase, valid := valid, busy := false, done := true },
    phase := Phase.idle.code }

/-- `Terminate(OK, NONE)` (R256): a start parse commits its header, a continuation parse none, and VALID is then
CONT_VALID. -/
def terminateOk (s : State) : Out :=
  if s.cmdStart then
    match commitHeader s.cfg.streamIds s.wk with
    | .error r => .fault (.readPoison r)
    | .ok h =>
      .next (endParse .ok .none 0 true
        { s with hdr := h.hdr, status := s.status.withHeader s.cfg.streamIds h })
  else .next (endParse .ok .none 0 s.cfg.contValid s)

/-- A failure's `Terminate(r, c)` (R256): FAIL_PHASE is PHASE, VALID is 0, no header is committed. -/
def failed (r : Result) (c : Cause) (s : State) : State := endParse r c s.phase false s

/-- `Terminate(result, cause)` (60_exceptions.md R256). -/
def terminate (r : Result) (c : Cause) (s : State) : Out :=
  match r with
  | .ok => terminateOk s
  | .malformed => .next (failed .malformed c s)
  | .unsupported => .next (failed .unsupported c s)
  | .truncated => .next (failed .truncated c s)

/-- "read n bits into F" (00_scope.md R15): the value goes to `k`; a field that does not fit ends the parse TRUNCATED
SHORT_FIELD. -/
def readField (n : Nat) (s : State) (k : Nat → State → Out) : Out :=
  match readBits n s with
  | .value v s' => k v s'
  | .short => terminate .truncated .shortField s
  | .unwritten a => .fault (.inUnwritten a)
  | .badWidth => .refused (.readerWidth n)

/-- A phase that reads `n` bits into a field of `Wk` and only goes on (42_header_parser.md). -/
def fieldPhase (n : Nat) (write : BitVec n → Wk → Wk) (next : Phase) (s : State) : Out :=
  readField n s (fun v s => .next ((s.setWk (write (BitVec.ofNat n v) s.wk)).goto next))

/-- A phase that checks a marker bit: "that must equal 1" (30_encoding.md R87; 42_header_parser.md R181). -/
def markerPhase (c : Cause) (k : State → Out) (s : State) : Out :=
  readField 1 s (fun m s => if m ≠ 1 then terminate .malformed c s else k s)

/-- Timestamp assembly `T = (hi << 30) | (mid << 15) | lo` (42_header_parser.md R193), in 33 bits. -/
def assembleTimestamp (hi : BitVec 3) (mid lo : BitVec 15) : BitVec 33 :=
  (hi.setWidth 33 <<< 30) ||| (mid.setWidth 33 <<< 15) ||| lo.setWidth 33

/-- What P_PDF does once it holds the flags (42_header_parser.md R171): they are recorded, and the forbidden value 0b01
ends the parse at once under FailFast. The PDF rows of the opcode table are this action at their value. -/
def flagsRead (flags : BitVec 2) (s : State) : Out :=
  let s := s.setWk { s.wk with ptsDtsFlags := .val flags }
  if flags = 0b01 ∧ s.cfg.forbiddenPolicy = .failFast then terminate .malformed .forbiddenPtsDts s
  else .next (s.goto .pEscrf)

end Sys2Proof.Machine
end

