-- ==== Sys2Proof/Machine/BitReader.lean ====
section
/-! DEFINITION. Machine/BitReader.lean: the four primitives of the Bit Reader as operations of their own
(40_bit_reader.md). "The parser phases use them; the host cannot issue them"; the value is what `State.out` then
holds. -/

namespace Sys2Proof.Machine

/-- `ReadBit()`: `return ReadBits(1) = 1` (R123). -/
def execReadBit (s : State) : Out := readField 1 s (fun v s => .next (s.answer (.bit (v == 1))))

/-- `ReadBits(n)` (R122); refused outside `1..READ_WIDTH` (R128); a field that does not fit raises
Truncated(SHORT_FIELD) (R121, 00_scope.md R14). -/
def execReadBits (n : Nat) (s : State) : Out := readField n s (fun v s => .next (s.answer (.bits v)))

/-- `BytesLeft()` (R124). -/
def execBytesLeft (s : State) : Out := .next (s.answer (.count (bytesLeft s)))

/-- `Current()`: the offset of the next unread byte, or the model fault NotByteAligned (R125). -/
def execCurrent (s : State) : Out :=
  match currentByte s with
  | some o => .next (s.answer (.count o))
  | none => .fault .notByteAligned

end Sys2Proof.Machine
end

