-- ==== Sys2Proof/Machine/Commands.lean ====
section
/-! DEFINITION. Machine/Commands.lean: the two commands (42_header_parser.md R159 to R161). -/

namespace Sys2Proof.Machine

/-- `PARSE.S len`: "start a parse of a range that begins a new packet" (R160). -/
def execParseS (len : Nat) (s : State) : Out := command true len s

/-- `PARSE.C len`: "parse a continuation range" (R161). -/
def execParseC (len : Nat) (s : State) : Out := command false len s

end Sys2Proof.Machine
end

