-- ==== Sys2Proof/Machine/HeaderPhases.lean ====
section
/-! DEFINITION. Machine/HeaderPhases.lean: the phases P_START to P_DTS_M2, in the order of 42_header_parser.md. A read
that does not fit ends the parse TRUNCATED SHORT_FIELD before any check (00_scope.md R15). -/

namespace Sys2Proof.Machine

/-! ## The fixed part -/

/-- P_START: "read and check the start code" (R162). -/
def execPStart (s : State) : Out :=
  readField 24 s (fun v s =>
    let s := s.setWk { s.wk with startCode := .val (BitVec.ofNat 24 v) }
    if v ≠ 0x000001 then terminate .malformed .badStartCode s else .next (s.goto .pSid))

/-- P_SID: "read the stream id" (R163). -/
def execPSid (s : State) : Out := fieldPhase 8 (fun v w => { w with streamId := .val v }) .pLen s

/-- P_LEN: "read the packet length and choose the path" (R164). -/
def execPLen (s : State) : Out :=
  readField 16 s (fun v s =>
    let s := s.setWk { s.wk with packetLength := .val (BitVec.ofNat 16 v) }
    needs .wkStreamId s.wk.streamId (fun id =>
      .next (s.goto (if hasOptionalHeader s.cfg.streamIds id then .pFixed else .pPayload))))

/-! ## The flag cluster -/

/-- P_FIXED: "read and check the fixed pattern" (R165). -/
def execPFixed (s : State) : Out :=
  readField 2 s (fun v s =>
    let s := s.setWk { s.wk with fixed := .val (BitVec.ofNat 2 v) }
    if v ≠ 0b10 then terminate .malformed .badFixedBits s else .next (s.goto .pScr))

/-- P_SCR: "read the scrambling control" (R166). -/
def execPScr (s : State) : Out := fieldPhase 2 (fun v w => { w with scrambling := .val v }) .pPri s

/-- P_PRI: "read the priority" (R167). -/
def execPPri (s : State) : Out := fieldPhase 1 (fun v w => { w with priority := .val v }) .pDai s

/-- P_DAI: "read the data-alignment-indicator" (R168). -/
def execPDai (s : State) : Out := fieldPhase 1 (fun v w => { w with dai := .val v }) .pCpy s

/-- P_CPY: "read the copyright bit" (R169). -/
def execPCpy (s : State) : Out := fieldPhase 1 (fun v w => { w with copyright := .val v }) .pOoc s

/-- P_OOC: "read the original-or-copy bit" (R170). -/
def execPOoc (s : State) : Out := fieldPhase 1 (fun v w => { w with original := .val v }) .pPdf s

/-- P_PDF: "read the PTS_DTS_flags" (R171). -/
def execPPdf (s : State) : Out := readField 2 s (fun v s => flagsRead (BitVec.ofNat 2 v) s)

/-- P_ESCRF: "read the ESCR flag"; "A 1 is acted on only at P_EXTCHK" (R172). -/
def execPEscrf (s : State) : Out := fieldPhase 1 (fun v w => { w with escrFlag := .val v }) .pEsrf s

/-- P_ESRF: "read the ES-rate flag" (R173). -/
def execPEsrf (s : State) : Out := fieldPhase 1 (fun v w => { w with esRateFlag := .val v }) .pDsmf s

/-- P_DSMF: "read the DSM-trick-mode flag" (R174). -/
def execPDsmf (s : State) : Out := fieldPhase 1 (fun v w => { w with dsmTrickFlag := .val v }) .pAcif s

/-- P_ACIF: "read the additional-copy-info flag" (R175). -/
def execPAcif (s : State) : Out := fieldPhase 1 (fun v w => { w with aciFlag := .val v }) .pCrcf s

/-- P_CRCF: "read the CRC flag" (R176). -/
def execPCrcf (s : State) : Out := fieldPhase 1 (fun v w => { w with crcFlag := .val v }) .pExtf s

/-- P_EXTF: "read the PES-extension flag" (R177). -/
def execPExtf (s : State) : Out := fieldPhase 1 (fun v w => { w with extFlag := .val v }) .pHdl s

/-- P_HDL: "read the header-data-length and choose the timestamp path" (R178). -/
def execPHdl (s : State) : Out :=
  readField 8 s (fun v s =>
    let s := s.setWk { s.wk with hdl := .val (BitVec.ofNat 8 v) }
    needs .wkPtsDtsFlags s.wk.ptsDtsFlags (fun flags =>
      .next (s.goto (if (timestampFields flags).hasPts then .pPtsPfx else .pExtchk))))

/-! ## The PTS field -/

/-- P_PTS_PFX: "read and cross-check the PTS prefix" against `zext_4(Wk.pts_dts_flags)` (R179). -/
def execPPtsPfx (s : State) : Out :=
  readField 4 s (fun p s =>
    needs .wkPtsDtsFlags s.wk.ptsDtsFlags (fun flags =>
      if p ≠ flags.toNat then terminate .malformed .badPtsPrefix s else .next (s.goto .pPtsHi)))

/-- P_PTS_HI: "read PTS[32:30]" (R180). -/
def execPPtsHi (s : State) : Out := fieldPhase 3 (fun v w => { w with ptsHi := .val v }) .pPtsM0 s

/-- P_PTS_M0: "check the first PTS marker" (R181). -/
def execPPtsM0 (s : State) : Out := markerPhase .badPtsMarker (fun s => .next (s.goto .pPtsMid)) s

/-- P_PTS_MID: "read PTS[29:15]" (R182). -/
def execPPtsMid (s : State) : Out := fieldPhase 15 (fun v w => { w with ptsMid := .val v }) .pPtsM1 s

/-- P_PTS_M1: "check the second PTS marker" (R183). -/
def execPPtsM1 (s : State) : Out := markerPhase .badPtsMarker (fun s => .next (s.goto .pPtsLo)) s

/-- P_PTS_LO: "read PTS[14:0]" (R184). -/
def execPPtsLo (s : State) : Out := fieldPhase 15 (fun v w => { w with ptsLo := .val v }) .pPtsM2 s

/-- P_PTS_M2: "check the third PTS marker and assemble the PTS" (R185). -/
def execPPtsM2 (s : State) : Out :=
  markerPhase .badPtsMarker (fun s =>
    needs .wkPtsHi s.wk.ptsHi (fun hi =>
    needs .wkPtsMid s.wk.ptsMid (fun mid =>
    needs .wkPtsLo s.wk.ptsLo (fun lo =>
    needs .wkPtsDtsFlags s.wk.ptsDtsFlags (fun flags =>
      .next ((s.setWk { s.wk with pts := .val (assembleTimestamp hi mid lo) }).goto
        (if (timestampFields flags).hasDts then .pDtsPfx else .pExtchk))))))) s

/-! ## The DTS field -/

/-- P_DTS_PFX: "read and check the DTS prefix", which must be 0b0001 (R186). -/
def execPDtsPfx (s : State) : Out :=
  readField 4 s (fun p s =>
    if p ≠ 0b0001 then terminate .malformed .badDtsPrefix s else .next (s.goto .pDtsHi))

/-- P_DTS_HI: "read DTS[32:30]" (R187). -/
def execPDtsHi (s : State) : Out := fieldPhase 3 (fun v w => { w with dtsHi := .val v }) .pDtsM0 s

/-- P_DTS_M0: "check the first DTS marker" (R188). -/
def execPDtsM0 (s : State) : Out := markerPhase .badDtsMarker (fun s => .next (s.goto .pDtsMid)) s

/-- P_DTS_MID: "read DTS[29:15]" (R189). -/
def execPDtsMid (s : State) : Out := fieldPhase 15 (fun v w => { w with dtsMid := .val v }) .pDtsM1 s

/-- P_DTS_M1: "check the second DTS marker" (R190). -/
def execPDtsM1 (s : State) : Out := markerPhase .badDtsMarker (fun s => .next (s.goto .pDtsLo)) s

/-- P_DTS_LO: "read DTS[14:0]" (R191). -/
def execPDtsLo (s : State) : Out := fieldPhase 15 (fun v w => { w with dtsLo := .val v }) .pDtsM2 s

/-- P_DTS_M2: "check the third DTS marker and assemble the DTS" (R192). -/
def execPDtsM2 (s : State) : Out :=
  markerPhase .badDtsMarker (fun s =>
    needs .wkDtsHi s.wk.dtsHi (fun hi =>
    needs .wkDtsMid s.wk.dtsMid (fun mid =>
    needs .wkDtsLo s.wk.dtsLo (fun lo =>
      .next ((s.setWk { s.wk with dts := .val (assembleTimestamp hi mid lo) }).goto .pExtchk))))) s

end Sys2Proof.Machine
end

