-- ==== Sys2Proof/Machine/Operands.lean ====
section
/-! DEFINITION. Machine/Operands.lean: the register-number operand of RegRead (10_state.md R29, 60_exceptions.md R271)
and the bit layout of the header a PARSE.S decodes (30_encoding.md R82, R92). -/

namespace Sys2Proof.Machine

/-- A register's value on the 64-bit read port: "zero-extended to 64 bits" (R271; notes/assumptions/20.md). -/
def zext64 (v : Nat) : BitVec 64 := BitVec.ofNat 64 v

/-- The value of a register that may be POISON, for the read port. -/
def portValue {n : Nat} (r : RegName) (v : Poisonable (BitVec n)) : Except RegName (BitVec 64) :=
  (valueOf r v).map (fun x => zext64 x.toNat)

/-- The value of a natural-number register that may be POISON, for the read port. While a parse runs its results are
POISON to the host (70_reset_and_hazards.md R296), CONSUMED and the feed registers too, which P_PAYLOAD writes one step
before DONE: DEDUCED, notes/assumptions/13.md. -/
def resultValue (s : State) (r : RegName) (v : Poisonable Nat) : Except RegName (BitVec 64) :=
  if s.status.busy then .error r else (valueOf r v).map zext64

/-- The register of number `n`, as the read port gives it (10_state.md R29): "A read of a number not in the table below
returns 0". The error is the register that is POISON. -/
def registerValue (s : State) (n : BitVec 8) : Except RegName (BitVec 64) :=
  match n.toNat with
  | 0x00 => .ok (zext64 s.status.readWord.toNat)
  | 0x01 => .ok (zext64 s.faultReg.word.toNat)
  | 0x02 => .ok (zext64 s.cmdStart.toNat)
  | 0x03 => .ok (zext64 s.len)
  | 0x04 => .ok (zext64 s.endPos)
  | 0x05 => resultValue s .consumed s.consumed
  | 0x06 => resultValue s .feedOffset s.feedOffset
  | 0x07 => resultValue s .feedLen s.feedLen
  | 0x08 => portValue .hdrStartCode s.hdr.startCode
  | 0x09 => portValue .hdrStreamId s.hdr.streamId
  | 0x0A => portValue .hdrPacketLength s.hdr.packetLength
  | 0x0B => portValue .hdrFlags1 s.hdr.flags1
  | 0x0C => portValue .hdrFlags2 s.hdr.flags2
  | 0x0D => portValue .hdrHdl s.hdr.hdl
  | 0x0E => portValue .hdrPts s.hdr.pts
  | 0x0F => portValue .hdrDts s.hdr.dts
  | _ => .ok 0

/-- The width of the field that the phase with a given PHASE code reads, 0 for a phase that reads none (R82, R96). -/
def fieldWidth : Nat → Nat
  | 0x01 => 24   -- start code
  | 0x02 => 8   -- stream_id
  | 0x03 => 16   -- packet_length
  | 0x04 => 2   -- fixed pattern
  | 0x05 => 2   -- scrambling control
  | 0x06 => 1   -- priority
  | 0x07 => 1   -- data-alignment-indicator
  | 0x08 => 1   -- copyright
  | 0x09 => 1   -- original-or-copy
  | 0x0A => 2   -- PTS_DTS_flags
  | 0x0B => 1   -- ESCR flag
  | 0x0C => 1   -- ES-rate flag
  | 0x0D => 1   -- DSM-trick-mode flag
  | 0x0E => 1   -- additional-copy-info flag
  | 0x0F => 1   -- CRC flag
  | 0x10 => 1   -- extension flag
  | 0x11 => 8   -- header-data-length
  | 0x12 => 4   -- PTS prefix
  | 0x13 => 3   -- PTS[32:30]
  | 0x14 => 1   -- marker
  | 0x15 => 15   -- PTS[29:15]
  | 0x16 => 1   -- marker
  | 0x17 => 15   -- PTS[14:0]
  | 0x18 => 1   -- marker
  | 0x19 => 4   -- DTS prefix
  | 0x1A => 3   -- DTS[32:30]
  | 0x1B => 1   -- marker
  | 0x1C => 15   -- DTS[29:15]
  | 0x1D => 1   -- marker
  | 0x1E => 15   -- DTS[14:0]
  | 0x1F => 1   -- marker
  | _ => 0

/-- The stream-bit offset of the field that the phase with a given PHASE code reads (R82). -/
def fieldOffset : Nat → Nat
  | 0x01 => 0   -- start code
  | 0x02 => 24   -- stream_id
  | 0x03 => 32   -- packet_length
  | 0x04 => 48   -- fixed pattern
  | 0x05 => 50   -- scrambling control
  | 0x06 => 52   -- priority
  | 0x07 => 53   -- data-alignment-indicator
  | 0x08 => 54   -- copyright
  | 0x09 => 55   -- original-or-copy
  | 0x0A => 56   -- PTS_DTS_flags
  | 0x0B => 58   -- ESCR flag
  | 0x0C => 59   -- ES-rate flag
  | 0x0D => 60   -- DSM-trick-mode flag
  | 0x0E => 61   -- additional-copy-info flag
  | 0x0F => 62   -- CRC flag
  | 0x10 => 63   -- extension flag
  | 0x11 => 64   -- header-data-length
  | 0x12 => 72   -- PTS prefix
  | 0x13 => 76   -- PTS[32:30]
  | 0x14 => 79   -- marker
  | 0x15 => 80   -- PTS[29:15]
  | 0x16 => 95   -- marker
  | 0x17 => 96   -- PTS[14:0]
  | 0x18 => 111   -- marker
  | 0x19 => 112   -- DTS prefix
  | 0x1A => 116   -- DTS[32:30]
  | 0x1B => 119   -- marker
  | 0x1C => 120   -- DTS[29:15]
  | 0x1D => 135   -- marker
  | 0x1E => 136   -- DTS[14:0]
  | 0x1F => 151   -- marker
  | _ => 0

/-- The header length `H` in bytes of a PARSE.S that reaches P_PAYLOAD (R92). -/
def headerBytes (hasOpt : Bool) (fields : TimestampFields) : Nat :=
  if hasOpt then
    match fields with
    | .noTimestamp => 9
    | .pts => 14
    | .ptsDts => 19
  else 6

end Sys2Proof.Machine
end

