-- ==== Sys2Proof/Machine/HostPorts.lean ====
section
/-! DEFINITION. Machine/HostPorts.lean: InWrite, RegRead, CLASSIFY and RESET (60_exceptions.md R270). -/

namespace Sys2Proof.Machine

/-- `InWrite(a, b)` (20_memory.md R61, R62). A write outside `IN` is the model fault HostProtocol(IN_ADDR) (R258),
whether or not a parse runs (DEDUCED, notes/assumptions/12.md); a write while BUSY "is not performed and sets
`FAULT.IN_WRITE_WHILE_BUSY`". -/
def execInWrite (a : Nat) (b : Byte) (s : State) : Out :=
  if s.cfg.maxLen ≤ a then .fault (.hostProtocolInAddr a)
  else if s.status.busy then .next { s with faultReg := { s.faultReg with inWriteWhileBusy := true } }
  else .next { s with inBuf := Memory.write s.inBuf a b }

/-- `RegRead(n)` (60_exceptions.md R271): the register's value on the read port, or the model fault ReadPoison. "It has
no side effect." -/
def execRegRead (n : BitVec 8) (s : State) : Out :=
  match registerValue s n with
  | .ok v => .next (s.answer (.register v))
  | .error r => .fault (.readPoison r)

/-- CLASSIFY (41_classifier.md R145): "It reads and writes no PESP state, and it cannot fault." -/
def execClassify (id : Byte) (s : State) : Out :=
  .next (s.answer (.classified (isAudioStream id) (isVideoStream id) (isPaddingStream s.cfg.streamIds id)
    (hasOptionalHeader s.cfg.streamIds id) (streamClass s.cfg.streamIds id)))

/-- RESET (70_reset_and_hazards.md R290): every state element at its reset value. The parameters and the host's
remaining actions are not PESP's state and stay (notes/assumptions/21.md). -/
def execReset (s : State) : Out := .next { State.resetOf s.cfg with turns := s.turns }

end Sys2Proof.Machine
end

