-- ==== Sys2Proof/Machine/PayloadPhases.lean ====
section
/-! DEFINITION. Machine/PayloadPhases.lean: IDLE, P_EXTCHK, the two branches of P_PAYLOAD, P_COMMIT
(43_payload_result.md) and the reserved PHASE codes (30_encoding.md R98). -/

namespace Sys2Proof.Machine

/-- IDLE: "wait for a command" (30_encoding.md R96). "Every register keeps its value in IDLE" (60_exceptions.md R266);
a turn of PESP in IDLE changes nothing (notes/assumptions/22.md). -/
def execIdle (s : State) : Out := .next s

/-- P_EXTCHK: "reject the unsupported extension flags" (R220). -/
def execPExtchk (s : State) : Out :=
  match s.wk.extFlags with
  | .error r => .fault (.readPoison r)
  | .ok flags => if flags ≠ 0 then terminate .unsupported .extFlagSet s else .next (s.goto .pPayload)

/-- P_PAYLOAD, padding branch: `packet_length` bytes are counted, not read, and nothing is forwarded (R224). -/
def execPPayloadPad (s : State) : Out :=
  needs .wkPacketLength s.wk.packetLength (fun n =>
    if bytesLeft s < n.toNat then terminate .truncated .shortPadding s
    else .next ({ s.advance (8 * n.toNat) with consumed := .val n.toNat }.goto .pCommit))

/-- P_PAYLOAD, forwarding branch: the rest of the range, possibly no byte at all, goes out as one event (R225). -/
def execPPayloadFwd (s : State) : Out :=
  match currentByte s with
  | none => .fault .notByteAligned
  | some o =>
    match Memory.range s.inBuf o (s.len - o) with
    | .error a => .fault (.inUnwritten a)
    | .ok bytes =>
      .next ({ s.emit bytes with
        status := { s.status with fed := true },
        feedOffset := .val o, feedLen := .val (s.len - o), consumed := .val (s.len - o),
        pos := 8 * s.len }.goto .pCommit)

/-- P_COMMIT: the verdict (R227); the forbidden flags end MALFORMED here, "reachable only under LateVerdict" (R228). -/
def execPCommit (s : State) : Out :=
  if s.cmdStart then
    needs .wkStreamId s.wk.streamId (fun id =>
      if hasOptionalHeader s.cfg.streamIds id then
        needs .wkPtsDtsFlags s.wk.ptsDtsFlags (fun flags =>
          if flags = 0b01 then terminate .malformed .forbiddenPtsDts s else terminate .ok .none s)
      else terminate .ok .none s)
  else terminate .ok .none s

/-- A reserved PHASE code, 0x23 to 0x3F: "A model that finds PHASE holding one of them is in the model fault
`BadPhase`" (R98). -/
def execPhaseReserved (code : BitVec 6) (_s : State) : Out := .fault (.badPhase code)

end Sys2Proof.Machine
end

