-- ==== Sys2Proof/Machine/Predicates.lean ====
section
/-! DEFINITION. Machine/Predicates.lean: the four predicates of the classifier as operations of their own
(41_classifier.md R140 to R143). "State written: none": only the output `State.out` changes. -/

namespace Sys2Proof.Machine

/-- `IsAudioStream(id)` (R140). -/
def execIsAudioStream (id : Byte) (s : State) : Out := .next (s.answer (.bit (isAudioStream id)))

/-- `IsVideoStream(id)` (R141). -/
def execIsVideoStream (id : Byte) (s : State) : Out := .next (s.answer (.bit (isVideoStream id)))

/-- `IsPaddingStream(id)` (R142). -/
def execIsPaddingStream (id : Byte) (s : State) : Out :=
  .next (s.answer (.bit (isPaddingStream s.cfg.streamIds id)))

/-- `HasOptionalHeader(id)` (R143). -/
def execHasOptionalHeader (id : Byte) (s : State) : Out :=
  .next (s.answer (.bit (hasOptionalHeader s.cfg.streamIds id)))

end Sys2Proof.Machine
end

