-- ==== Sys2Proof/Machine/PtsDtsFlags.lean ====
section
/-! DEFINITION. Machine/PtsDtsFlags.lean: the rows of the PTS_DTS_flags table (30_encoding.md R86) as operations.
DEDUCED, notes/assumptions/10.md. -/

namespace Sys2Proof.Machine

/-- What a row of the PTS_DTS_flags table does (R86): its "fields that follow" and whether it is the forbidden value are
the table's output, and its outcome is what P_PDF does with the value (42_header_parser.md R171): "continue", or
MALFORMED FORBIDDEN_PTS_DTS when FORBIDDEN_POLICY reports it there. -/
def flagsRow (flags : BitVec 2) (s : State) : Out :=
  flagsRead flags (s.answer (.flagsRow (timestampFields flags) (flags == 0b01)))

/-- 0b00: no timestamp, continue (R86). -/
def execPdfNone (s : State) : Out := flagsRow 0b00 s

/-- 0b01: forbidden, MALFORMED FORBIDDEN_PTS_DTS, reported as FORBIDDEN_POLICY says (R86, R171). -/
def execPdfForbidden (s : State) : Out := flagsRow 0b01 s

/-- 0b10: PTS only, the PTS field follows (R86). -/
def execPdfPts (s : State) : Out := flagsRow 0b10 s

/-- 0b11: PTS and DTS, the PTS field and then the DTS field follow (R86). -/
def execPdfPtsDts (s : State) : Out := flagsRow 0b11 s

end Sys2Proof.Machine
end

