-- ==== Sys2Proof/Machine/StreamIdMap.lean ====
section
/-! DEFINITION. Machine/StreamIdMap.lean: the rows of the stream-id map (30_encoding.md R94) as operations: "The
stream-id byte selects the phase path." DEDUCED, notes/assumptions/9.md. -/

namespace Sys2Proof.Machine

/-- What a row of the stream-id map does (R94): its class, its HasOptionalHeader and padding columns are the map's
output, and its column "path after P_LEN" selects the phase. In a parse, P_LEN is what selects it (R164). -/
def selectRow (c : StreamClass) (s : State) : Out :=
  .next ((s.goto c.path).answer (.streamRow c c.hasOpt c.isPad c.path))

/-- PSM, ProgramStreamMap: P_PAYLOAD, forward (R94). -/
def execSidPsm (s : State) : Out := selectRow .psm s

/-- PADDING, PaddingStream: P_PAYLOAD, discard `packet_length` bytes (R94). -/
def execSidPadding (s : State) : Out := selectRow .padding s

/-- PRIV2, PrivateStream2: P_PAYLOAD, forward (R94). -/
def execSidPriv2 (s : State) : Out := selectRow .priv2 s

/-- ECM, ECMStream: P_PAYLOAD, forward (R94). -/
def execSidEcm (s : State) : Out := selectRow .ecm s

/-- EMM, EMMStream: P_PAYLOAD, forward (R94). -/
def execSidEmm (s : State) : Out := selectRow .emm s

/-- DSMCC, DSMCCStream: P_PAYLOAD, forward (R94). -/
def execSidDsmcc (s : State) : Out := selectRow .dsmcc s

/-- H2221E, ITU_T_H222_1_E_Stream: P_PAYLOAD, forward (R94). -/
def execSidH2221e (s : State) : Out := selectRow .h2221e s

/-- PSD, ProgramStreamDirectory: P_PAYLOAD, forward (R94). -/
def execSidPsd (s : State) : Out := selectRow .psd s

/-- AUDIO: P_FIXED (R94). -/
def execSidAudio (s : State) : Out := selectRow .audio s

/-- VIDEO: P_FIXED (R94). -/
def execSidVideo (s : State) : Out := selectRow .video s

/-- OTHER: P_FIXED (R94). -/
def execSidOther (s : State) : Out := selectRow .other s

end Sys2Proof.Machine
end

