-- ==== Sys2Proof/Machine/Dispatch.lean ====
section
/-! DEFINITION. Machine/Dispatch.lean: one arm per instruction, in the order of spec/opcode_table.json. -/

namespace Sys2Proof.Machine

def exec (i : Instr) (s : State) : Host.Outcome State Fault Refusal :=
  match i with
  | .parseS len => Sys2Proof.Machine.execParseS len s
  | .parseC len => Sys2Proof.Machine.execParseC len s
  | .inWrite a b => Sys2Proof.Machine.execInWrite a b s
  | .regRead n => Sys2Proof.Machine.execRegRead n s
  | .classify id => Sys2Proof.Machine.execClassify id s
  | .reset => Sys2Proof.Machine.execReset s
  | .readBit => Sys2Proof.Machine.execReadBit s
  | .readBits n => Sys2Proof.Machine.execReadBits n s
  | .bytesLeft => Sys2Proof.Machine.execBytesLeft s
  | .current => Sys2Proof.Machine.execCurrent s
  | .isAudioStream id => Sys2Proof.Machine.execIsAudioStream id s
  | .isVideoStream id => Sys2Proof.Machine.execIsVideoStream id s
  | .isPaddingStream id => Sys2Proof.Machine.execIsPaddingStream id s
  | .hasOptionalHeader id => Sys2Proof.Machine.execHasOptionalHeader id s
  | .sidPsm => Sys2Proof.Machine.execSidPsm s
  | .sidPadding => Sys2Proof.Machine.execSidPadding s
  | .sidPriv2 => Sys2Proof.Machine.execSidPriv2 s
  | .sidEcm => Sys2Proof.Machine.execSidEcm s
  | .sidEmm => Sys2Proof.Machine.execSidEmm s
  | .sidDsmcc => Sys2Proof.Machine.execSidDsmcc s
  | .sidH2221e => Sys2Proof.Machine.execSidH2221e s
  | .sidPsd => Sys2Proof.Machine.execSidPsd s
  | .sidAudio _ => Sys2Proof.Machine.execSidAudio s
  | .sidVideo _ => Sys2Proof.Machine.execSidVideo s
  | .sidOther _ => Sys2Proof.Machine.execSidOther s
  | .pdfNone _ => Sys2Proof.Machine.execPdfNone s
  | .pdfForbidden _ => Sys2Proof.Machine.execPdfForbidden s
  | .pdfPts _ => Sys2Proof.Machine.execPdfPts s
  | .pdfPtsDts _ => Sys2Proof.Machine.execPdfPtsDts s
  | .idle => Sys2Proof.Machine.execIdle s
  | .pStart => Sys2Proof.Machine.execPStart s
  | .pSid => Sys2Proof.Machine.execPSid s
  | .pLen => Sys2Proof.Machine.execPLen s
  | .pFixed => Sys2Proof.Machine.execPFixed s
  | .pScr => Sys2Proof.Machine.execPScr s
  | .pPri => Sys2Proof.Machine.execPPri s
  | .pDai => Sys2Proof.Machine.execPDai s
  | .pCpy => Sys2Proof.Machine.execPCpy s
  | .pOoc => Sys2Proof.Machine.execPOoc s
  | .pPdf => Sys2Proof.Machine.execPPdf s
  | .pEscrf => Sys2Proof.Machine.execPEscrf s
  | .pEsrf => Sys2Proof.Machine.execPEsrf s
  | .pDsmf => Sys2Proof.Machine.execPDsmf s
  | .pAcif => Sys2Proof.Machine.execPAcif s
  | .pCrcf => Sys2Proof.Machine.execPCrcf s
  | .pExtf => Sys2Proof.Machine.execPExtf s
  | .pHdl => Sys2Proof.Machine.execPHdl s
  | .pPtsPfx => Sys2Proof.Machine.execPPtsPfx s
  | .pPtsHi => Sys2Proof.Machine.execPPtsHi s
  | .pPtsM0 => Sys2Proof.Machine.execPPtsM0 s
  | .pPtsMid => Sys2Proof.Machine.execPPtsMid s
  | .pPtsM1 => Sys2Proof.Machine.execPPtsM1 s
  | .pPtsLo => Sys2Proof.Machine.execPPtsLo s
  | .pPtsM2 => Sys2Proof.Machine.execPPtsM2 s
  | .pDtsPfx => Sys2Proof.Machine.execPDtsPfx s
  | .pDtsHi => Sys2Proof.Machine.execPDtsHi s
  | .pDtsM0 => Sys2Proof.Machine.execPDtsM0 s
  | .pDtsMid => Sys2Proof.Machine.execPDtsMid s
  | .pDtsM1 => Sys2Proof.Machine.execPDtsM1 s
  | .pDtsLo => Sys2Proof.Machine.execPDtsLo s
  | .pDtsM2 => Sys2Proof.Machine.execPDtsM2 s
  | .pExtchk => Sys2Proof.Machine.execPExtchk s
  | .pPayloadPad => Sys2Proof.Machine.execPPayloadPad s
  | .pPayloadFwd => Sys2Proof.Machine.execPPayloadFwd s
  | .pCommit => Sys2Proof.Machine.execPCommit s
  | .phaseReserved code => Sys2Proof.Machine.execPhaseReserved code s

end Sys2Proof.Machine
end

