-- ==== Sys2Proof/Machine/Fetch.lean ====
section
/-! DEFINITION. Machine/Fetch.lean: what runs next. PESP "fetches nothing" (70_reset_and_hazards.md R291): its next
instruction is the rule of the phase in PHASE (42_header_parser.md R194), or the action the host puts on a port between
two phase steps. Whose move it is stands in `State.turns` (notes/assumptions/1.md, 6.md). -/

namespace Sys2Proof.Machine

/-- The byte that stands for the phase in PHASE. In P_PAYLOAD it also says the branch: the padding branch is taken when
`CMD_START = 1` and `IsPaddingStream(Wk.stream_id)` (43_payload_result.md R224, R225). The error is a stream id that is
POISON, which no run reaches. -/
def phaseByte (s : State) : Except RegName Byte :=
  if s.phase = Phase.pPayload.code ∧ s.cmdStart then
    match s.wk.streamId with
    | .poison => .error .wkStreamId
    | .val id => .ok (if isPaddingStream s.cfg.streamIds id then payloadPadByte else s.phase.setWidth 8)
  else .ok (s.phase.setWidth 8)

/-- What the fetch finds: an instruction and the state it runs in, or why there is none. -/
inductive Fetched where
  | run (i : Instr) (s : State)
  | fault (f : Fault)
  | refused (r : Refusal)
  deriving DecidableEq, Repr

/-- The instruction of a word. -/
def fetchWord (w : PortWord) (s : State) : Fetched :=
  match decode s.cfg w with
  | .ok i => .run i s
  | .error e => .refused (.undecodable e)

/-- A turn of PESP: the phase in PHASE. -/
def fetchPhase (s : State) : Fetched :=
  match phaseByte s with
  | .ok b => fetchWord ⟨.phase, [b]⟩ s
  | .error r => .fault (.readPoison r)

/-- The next instruction, and the state in which it runs: the turn taken off the list. With no turn listed PESP takes
its own ("A step is always enabled while `PHASE != IDLE`", R194). -/
def fetch (s : State) : Fetched :=
  match s.turns with
  | [] => fetchPhase s
  | .pesp :: rest => fetchPhase { s with turns := rest }
  | .host w :: rest =>
    if w.port.isHost then fetchWord w { s with turns := rest } else .refused (.notHostPort w.port)
  | .unit w :: rest =>
    if w.port.isUnit then fetchWord w { s with turns := rest } else .refused (.notUnitPort w.port)

/-- The state in which `fetch` finds a given word of opcode_table.json next: a phase stands in PHASE (and CMD_START is
0, so that P_PAYLOAD is its forwarding branch), any other word is the next turn. -/
def placeWord (s : State) (w : PortWord) : State :=
  match w.port with
  | .phase =>
    { s with phase := (w.bytes.headD 0).setWidth 6, cmdStart := false, turns := .pesp :: s.turns }
  | .command | .inWrite | .regRead | .classify | .reset => { s with turns := .host w :: s.turns }
  | .reader | .isAudio | .isVideo | .isPadding | .hasOptional | .streamId | .ptsDtsFlags =>
    { s with turns := .unit w :: s.turns }

end Sys2Proof.Machine
end

