-- ==== Sys2Proof/Machine/Step.lean ====
section
/-! DEFINITION. Machine/Step.lean: one step, and where a table word is placed for the host's questions. -/

namespace Sys2Proof.Machine

/-- One step: the next instruction runs (42_header_parser.md R194). -/
def step (s : State) : Host.Outcome State Fault Refusal :=
  match fetch s with
  | .run i s' => exec i s'
  | .fault f => .fault f
  | .refused r => .refused r

/-- The state whose very next step runs the instruction of a table word (notes/assumptions/6.md). -/
def State.withFetchWord (s : State) (nbits w : Nat) : State := placeWord s (tableWord s.cfg nbits w)

end Sys2Proof.Machine
end

