-- ==== Sys2Proof/Machine/Program.lean ====
section
/-! DEFINITION. Machine/Program.lean: host programs (30_encoding.md R105), the byte builders (R106) and the byte form of
a timestamp field (R90): how bytes and commands reach PESP's ports. Where a program's run ends is
Machine/Run.lean. -/

namespace Sys2Proof.Machine

/-- `.SC`: the start code (R106). -/
def startCodeBytes : List Byte := [0x00, 0x00, 0x01]

/-- `.FIX sid, plen`: the fixed part of a header (R106). -/
def fixedPartBytes (sid : Byte) (plen : BitVec 16) : List Byte :=
  startCodeBytes ++ [sid, plen.extractLsb' 8 8, plen.extractLsb' 0 8]

/-- `.OPT scr, pri, dai, cpy, ooc, pdf, ext, hdl`: the flag cluster, the fixed pattern 0b10 first (R85, R106). -/
def flagClusterBytes (scr : BitVec 2) (pri dai cpy ooc : BitVec 1) (pdf : BitVec 2) (ext : BitVec 6) (hdl : Byte) :
    List Byte :=
  [0b10#2 ++ scr ++ pri ++ dai ++ cpy ++ ooc, pdf ++ ext, hdl]

/-- `.TS p, T`: the five bytes of a timestamp field with the 4-bit value `p` before `T` (R87, R90). -/
def timestampBytes (p : BitVec 4) (T : BitVec 33) : List Byte :=
  [p ++ T.extractLsb' 30 3 ++ 1#1, T.extractLsb' 22 8, T.extractLsb' 15 7 ++ 1#1, T.extractLsb' 7 8,
   T.extractLsb' 0 7 ++ 1#1]

/-- `.PTS T` (R106). -/
def ptsBytes (T : BitVec 33) : List Byte := timestampBytes 0b0010 T

/-- `.PTSDTS Tp, Td` (R106). -/
def ptsDtsBytes (Tp Td : BitVec 33) : List Byte := timestampBytes 0b0011 Tp ++ timestampBytes 0b0001 Td

/-- One line of a host program (R105), and a use of the CLASSIFY port. -/
inductive HostAction where
  | reset
  | inBytes (a : Nat) (bytes : List Byte)
  | parseS (len : Nat)
  | parseC (len : Nat)
  | run
  | rd (n : BitVec 8)
  | classify (id : Byte)
  deriving DecidableEq, Repr

/-- The writes `InWrite(a, b0)`, `InWrite(a+1, b1)`, … (R105). -/
def inBytesTurns (c : Config) : Nat → List Byte → List Turn
  | _, [] => []
  | a, b :: bs => .host (encode c (.inWrite a b)) :: inBytesTurns c (a + 1) bs

/-- The turns of one line. Every `InWrite` has its word; a command whose `len` does not fit the LW bits of R80 has none,
and the step that meets its turn is refused by name: notes/assumptions/28.md. `RUN` "lets PESP step until
`STATUS.DONE = 1`", which takes a running parse at most 34 steps (R97, R302); turns left over find IDLE and change
nothing: notes/assumptions/25.md. Where no parse runs and DONE = 0, as right after RESET, DONE never becomes 1 and R105
gives `RUN` no end: the model ends it after its 34 turns and goes on with the next line, DESIGN CHOICE,
notes/assumptions/29.md. -/
def HostAction.turns (c : Config) : HostAction → List Turn
  | .reset => [.host (encode c .reset)]
  | .inBytes a bs => inBytesTurns c a bs
  | .parseS len => [.host (encode c (.parseS len))]
  | .parseC len => [.host (encode c (.parseC len))]
  | .run => List.replicate 34 .pesp
  | .rd n => [.host (encode c (.regRead n))]
  | .classify id => [.host (encode c (.classify id))]

/-- The state with a host program's actions pending: how a program comes to run (notes/assumptions/6.md). -/
def State.load (s : State) (p : List HostAction) : State :=
  { s with turns := s.turns ++ p.flatMap (HostAction.turns s.cfg) }

end Sys2Proof.Machine
end

