-- ==== Sys2Proof/Machine/Reference.lean ====
section
/-! DEFINITION. Machine/Reference.lean: the reference function `Parse` of 42_header_parser.md R196, and the results it
computes. "If they disagree, the phase rules govern." -/

namespace Sys2Proof.Machine

/-- What the bytes of a range and `start` decide of a command's results, and so what R196 computes: STATUS, the registers
that P_PAYLOAD and `Terminate` write, and the event, if any, sent to the sink. The whole observation of a run, with FAULT,
CMD_START and CMD_LEN, is `RunObservation` in Machine/Run.lean (60_exceptions.md R272). -/
structure Observation where
  status     : Status
  endPos     : Nat
  consumed   : Poisonable Nat
  feedOffset : Poisonable Nat
  feedLen    : Poisonable Nat
  hdr        : Hdr
  event      : Option (List Byte)
  deriving DecidableEq, Repr

/-- Why the reference function ends before its end: a failure at a phase and a position, or a read of a byte never
written (20_memory.md R63). -/
inductive RefStop where
  | failed (r : Result) (c : Cause) (p : Phase) (pos : Nat)
  | unwritten (a : Nat)
  deriving DecidableEq, Repr

/-- `read n` at bit position `pos` of `IN[0..L-1]`: fails (TRUNCATED, SHORT_FIELD) when fewer than `n` bits remain. -/
def refRead (m : Memory) (L : Nat) (p : Phase) (n pos : Nat) : Except RefStop Nat :=
  if n ≤ 8 * L - pos then
    match Memory.bits m n pos 0 with
    | .ok v => .ok v
    | .error a => .error (.unwritten a)
  else .error (.failed .truncated .shortField p pos)

/-- A failed check: (MALFORMED, c), just past the field. -/
def refCheck (ok : Bool) (c : Cause) (p : Phase) (pos : Nat) : Except RefStop Unit :=
  if ok then .ok () else .error (.failed .malformed c p pos)

/-- `TS(c)` of R196 with the phases and the position of its first field: three segments, each followed by a marker. -/
def refTimestamp (m : Memory) (L : Nat) (c : Cause) (pHi pM0 pMid pM1 pLo pM2 : Phase) (pos : Nat) :
    Except RefStop (BitVec 33) := do
  let hi ← refRead m L pHi 3 pos
  let m0 ← refRead m L pM0 1 (pos + 3)
  refCheck (m0 == 1) c pM0 (pos + 4)
  let mid ← refRead m L pMid 15 (pos + 4)
  let m1 ← refRead m L pM1 1 (pos + 19)
  refCheck (m1 == 1) c pM1 (pos + 20)
  let lo ← refRead m L pLo 15 (pos + 20)
  let m2 ← refRead m L pM2 1 (pos + 35)
  refCheck (m2 == 1) c pM2 (pos + 36)
  pure (assembleTimestamp (BitVec.ofNat 3 hi) (BitVec.ofNat 15 mid) (BitVec.ofNat 15 lo))

/-- A header as the reference function decodes it, and where its payload starts. -/
structure RefHeader where
  hdr    : Hdr
  id     : Byte
  plen   : Nat
  hasOpt : Bool
  fields : TimestampFields
  late   : Bool      -- the forbidden flags, carried on under LateVerdict
  pos    : Nat
  deriving DecidableEq, Repr

/-- The timestamps that follow the flag cluster, from bit 72 on (R196). -/
def refTimestamps (m : Memory) (L : Nat) (flags : Nat) :
    Except RefStop (Poisonable (BitVec 33) × Poisonable (BitVec 33) × Nat) := do
  if flags = 0b10 ∨ flags = 0b11 then
    let p ← refRead m L .pPtsPfx 4 72
    refCheck (p == flags) .badPtsPrefix .pPtsPfx 76
    let pts ← refTimestamp m L .badPtsMarker .pPtsHi .pPtsM0 .pPtsMid .pPtsM1 .pPtsLo .pPtsM2 76
    if flags = 0b11 then
      let p ← refRead m L .pDtsPfx 4 112
      refCheck (p == 0b0001) .badDtsPrefix .pDtsPfx 116
      let dts ← refTimestamp m L .badDtsMarker .pDtsHi .pDtsM0 .pDtsMid .pDtsM1 .pDtsLo .pDtsM2 116
      pure (.val pts, .val dts, 152)
    else pure (.val pts, .poison, 112)
  else pure (.poison, .poison, 72)

/-- The header part of `Parse` (R196), up to the label PAYLOAD. -/
def refHeader (c : Config) (m : Memory) (L : Nat) : Except RefStop RefHeader := do
  let sc ← refRead m L .pStart 24 0
  refCheck (sc == 0x000001) .badStartCode .pStart 24
  let sid ← refRead m L .pSid 8 24
  let plen ← refRead m L .pLen 16 32
  let id : Byte := BitVec.ofNat 8 sid
  let base : Hdr := { Hdr.poison with
    startCode := .val (BitVec.ofNat 24 sc), streamId := .val id, packetLength := .val (BitVec.ofNat 16 plen) }
  if hasOptionalHeader c.streamIds id then
    let fixed ← refRead m L .pFixed 2 48
    refCheck (fixed == 0b10) .badFixedBits .pFixed 50
    let scr ← refRead m L .pScr 2 50
    let pri ← refRead m L .pPri 1 52
    let dai ← refRead m L .pDai 1 53
    let cpy ← refRead m L .pCpy 1 54
    let ooc ← refRead m L .pOoc 1 55
    let flags ← refRead m L .pPdf 2 56
    refCheck (!(flags == 0b01 && c.forbiddenPolicy == .failFast)) .forbiddenPtsDts .pPdf 58
    let escr ← refRead m L .pEscrf 1 58
    let esr ← refRead m L .pEsrf 1 59
    let dsm ← refRead m L .pDsmf 1 60
    let aci ← refRead m L .pAcif 1 61
    let crc ← refRead m L .pCrcf 1 62
    let ext ← refRead m L .pExtf 1 63
    let hdl ← refRead m L .pHdl 8 64
    let (pts, dts, pos) ← refTimestamps m L flags
    if escr + esr + dsm + aci + crc + ext = 0 then
      pure {
        hdr := { base with
          flags1 := .val (BitVec.ofNat 8 (fixed * 64 + scr * 16 + pri * 8 + dai * 4 + cpy * 2 + ooc)),
          flags2 := .val (BitVec.ofNat 8 (flags * 64 + escr * 32 + esr * 16 + dsm * 8 + aci * 4 + crc * 2 + ext)),
          hdl := .val (BitVec.ofNat 8 hdl), pts := pts, dts := dts },
        id := id, plen := plen, hasOpt := true, fields := timestampFields (BitVec.ofNat 2 flags),
        late := flags == 0b01, pos := pos }
    else .error (.failed .unsupported .extFlagSet .pExtchk pos)
  else
    pure { hdr := base, id := id, plen := plen, hasOpt := false, fields := .noTimestamp, late := false, pos := 48 }

/-- STATUS of a failure, without the feed bit. -/
def refFailStatus (r : Result) (c : Cause) (p : Phase) (fed : Bool) : Status :=
  { Status.zero with done := true, result := r, cause := c, failPhase := p.code, fed := fed }

/-- The observation of a failure before P_PAYLOAD has written anything. -/
def refFailure (r : Result) (c : Cause) (p : Phase) (pos : Nat) : Observation :=
  { status := refFailStatus r c p false, endPos := pos, consumed := .poison, feedOffset := .poison, feedLen := .poison,
    hdr := Hdr.poison, event := none }

/-- STATUS of a start parse that ends OK. -/
def refOkStatus (t : StreamIdTable) (h : RefHeader) (fed : Bool) : Status :=
  { Status.zero with
    done := true, valid := true, fed := fed, hdrPresent := true, optPresent := h.hasOpt,
    ptsPresent := h.fields.hasPts, dtsPresent := h.fields.hasDts,
    isAudio := isAudioStream h.id, isVideo := isVideoStream h.id, isPadding := isPaddingStream t h.id,
    hasOpt := hasOptionalHeader t h.id }

/-- `Parse(IN[0..L-1], start)` (R196). The error is a byte of `IN` that was never written. -/
def parse (c : Config) (m : Memory) (L : Nat) (start : Bool) : Except Nat Observation :=
  if start then
    match refHeader c m L with
    | .error (.unwritten a) => .error a
    | .error (.failed r cause p pos) => .ok (refFailure r cause p pos)
    | .ok h =>
      if isPaddingStream c.streamIds h.id then
        if L - h.pos / 8 < h.plen then .ok (refFailure .truncated .shortPadding .pPayload h.pos)
        else if h.late then
          .ok { refFailure .malformed .forbiddenPtsDts .pCommit (h.pos + 8 * h.plen) with consumed := .val h.plen }
        else
          .ok { status := refOkStatus c.streamIds h false, endPos := h.pos + 8 * h.plen, consumed := .val h.plen,
                feedOffset := .poison, feedLen := .poison, hdr := h.hdr, event := none }
      else
        match Memory.range m (h.pos / 8) (L - h.pos / 8) with
        | .error a => .error a
        | .ok bytes =>
          let k := L - h.pos / 8
          .ok { status :=
                  if h.late then refFailStatus .malformed .forbiddenPtsDts .pCommit true
                  else refOkStatus c.streamIds h true,
                endPos := 8 * L, consumed := .val k, feedOffset := .val (h.pos / 8), feedLen := .val k,
                hdr := if h.late then Hdr.poison else h.hdr, event := some bytes }
  else
    match Memory.range m 0 L with
    | .error a => .error a
    | .ok bytes =>
      .ok { status := { Status.zero with done := true, valid := c.contValid, fed := true }, endPos := 8 * L,
            consumed := .val L, feedOffset := .val 0, feedLen := .val L, hdr := Hdr.poison, event := some bytes }

/-- The results a state holds, with the event of its command. -/
def State.observation (s : State) (event : Option (List Byte)) : Observation :=
  { status := s.status, endPos := s.endPos, consumed := s.consumed, feedOffset := s.feedOffset, feedLen := s.feedLen,
    hdr := s.hdr, event := event }

end Sys2Proof.Machine
end

