-- ==== Sys2Proof/Machine/System.lean ====
section
/-! DEFINITION. Machine/System.lean: several PESP instances. "Each has its own copy of every state element … They share
nothing" (60_exceptions.md R268). -/

namespace Sys2Proof.Machine

/-- The instances of a system; N_INSTANCES is their number (00_scope.md R11). DESIGN CHOICE, notes/assumptions/23.md. -/
abbrev System := List State

/-- "a natural number of at least 1" (R11). -/
def System.wf (sys : System) : Bool := decide (1 ≤ sys.length)

/-- One step of instance `k`; the others do not move. A system in which instance `k` does not exist, or stops, has no
next system. -/
def System.stepInstance (sys : System) (k : Nat) : Option System :=
  match sys[k]? with
  | none => none
  | some s =>
    match step s with
    | .next s' => some (sys.set k s')
    | .fault _ => none
    | .refused _ => none

end Sys2Proof.Machine
end

