-- ==== Sys2Proof/Safety.lean ====
section
/-! DEFINITION. Safety.lean: what counts as a safe run: the launch premise of 70_reset_and_hazards.md R294, runs without
a recorded fault (60_exceptions.md R258), and the invariant that every step keeps, in parts named after what they
say. -/

namespace Sys2Proof.Machine

/-! ## Faults and the launch premise -/

/-- No host-protocol fault is recorded (10_state.md R42, 60_exceptions.md R258). -/
abbrev State.faultFree (s : State) : Prop := s.faultReg = FaultReg.zero

/-- No byte of `IN[a .. a+k-1]` is POISON (20_memory.md R63). -/
def Memory.written (m : Memory) (a k : Nat) : Prop := ∀ i, a ≤ i → i < a + k → ∃ b, Memory.read m i = .val b

/-- A turn that R294 (d) allows between a command and DONE = 1: a step of PESP, a RegRead or a CLASSIFY. -/
def Turn.quiet : Turn → Bool
  | .pesp => true
  | .host w => w.port == .regRead || w.port == .classify
  | .unit _ => false

/-- A turn of an internal unit, which no host can issue (30_encoding.md R104). -/
def Turn.isUnit : Turn → Bool
  | .unit _ => true
  | .pesp => false
  | .host _ => false

/-- From the state an accept leaves, no turn but a quiet one comes before DONE = 1; the parse is running while BUSY = 1
(10_state.md R31, R32). What the host does after DONE = 1 is left free. -/
def State.quietUntilDone (s : State) : Prop :=
  ∀ k u, core.run k s = .next u → (∀ j v, j ≤ k → core.run j s = .next v → v.status.busy = true) →
    ∀ x ∈ u.turns.head?, x.quiet = true

/-- The `start` of the command of length `len` that is the next turn, if one is. -/
def State.pendingStart (len : Nat) (s : State) : Option Bool :=
  match s.turns with
  | .host w :: _ =>
    if decode s.cfg w = .ok (.parseS len) then some true
    else if decode s.cfg w = .ok (.parseC len) then some false else none
  | [] | .pesp :: _ | .unit _ :: _ => none

/-- The state that the command leaves when it is accepted next: the command's own turn is taken, where it is listed. -/
def State.launched (start : Bool) (len : Nat) (s : State) : State :=
  accept start len (if s.pendingStart len = some start then { s with turns := s.turns.tail } else s)

/-- The launch premise `Clean(len)` (R294), in a state in which the command of length `len` is about to be issued: it is
the next turn, or it comes before the turns listed, from a host that has not listed it. -/
def State.clean (len : Nat) (s : State) : Prop :=
  s.faultFree ∧                                                                          -- (a)
  (s.phase = Phase.idle.code ∧ s.status.busy = false) ∧                                  -- (b)
  (len ≤ s.cfg.maxLen ∧ Memory.written s.inBuf 0 len) ∧                                  -- (c)
  ∀ start, s.pendingStart len ≠ some (!start) → (s.launched start len).quietUntilDone    -- (d)

/-- It is PESP's own turn: the step is the phase in PHASE (42_header_parser.md R194). -/
def State.pespTurn (s : State) : Bool := s.turns.head?.all (· == .pesp)

/-- The field of `n` bits at POS can be read: `READ_WIDTH` allows the width, the field fits in the range, and every byte
it touches is written (40_bit_reader.md R121, R122, R128; 20_memory.md R63). -/
def State.readable (n : Nat) (s : State) : Prop :=
  1 ≤ n ∧ n ≤ s.cfg.readWidth ∧ s.pos + n ≤ 8 * s.len ∧
    ∀ i, s.pos ≤ i → i < s.pos + n → ∃ b, Memory.read s.inBuf (i / 8) = .val b

/-- The state a failure's `Terminate(r, c)` leaves (60_exceptions.md R256, R253), for the statements: END_POS is POS,
FAIL_PHASE is PHASE, VALID is 0, and PESP is IDLE with DONE = 1. -/
abbrev State.failure (s : State) (r : Result) (c : Cause) : State :=
  { s with
    endPos := s.pos,
    status := { s.status with
      result := r, cause := c, failPhase := s.phase, valid := false, busy := false, done := true },
    phase := 0x00 }

/-- Stream bit `i` of `IN` (00_scope.md R12), 0 where the byte is POISON. -/
def streamBit (m : Memory) (i : Nat) : Bool :=
  match Memory.read m (i / 8) with
  | .poison => false
  | .val b => streamBitOf b i

/-- The unsigned number of the `n` stream bits from `i` on, the first the most significant (20_memory.md R65). -/
def streamValue (m : Memory) (i : Nat) : Nat → Nat
  | 0 => 0
  | n + 1 => 2 * streamValue m i n + (streamBit m (i + n)).toNat

/-! ## The terms of the statements about instructions -/

/-- A field of `n` bits at POS does not fit in the range (40_bit_reader.md R121). -/
abbrev State.shortBy (n : Nat) (s : State) : Prop := 8 * s.len < s.pos + n

/-- An instruction that reads a field of `n` bits ends the parse TRUNCATED SHORT_FIELD where the field does not fit, and
consumes nothing (00_scope.md R15, 40_bit_reader.md R121). -/
abbrev truncates (i : Instr) (n : Nat) (s : State) : Prop :=
  n ≤ s.cfg.readWidth → s.shortBy n → exec i s = .next (s.failure .truncated .shortField)

/-- A phase reads a field of `n` bits, writes it into the working header, and goes on to the phase with code `next`,
whatever the field's value (42_header_parser.md R163 and the rules like it). -/
abbrev recordsField (i : Instr) (n : Nat) (write : BitVec n → Wk → Wk) (next : BitVec 6) (s : State) : Prop :=
  truncates i n s ∧
    (s.readable n → exec i s = .next
      { s with
        wk := write (BitVec.ofNat n (streamValue s.inBuf s.pos n)) s.wk
        pos := s.pos + n
        phase := next })

/-- A phase reads one bit: a 1 goes on to the phase with code `next`, a 0 ends the parse MALFORMED with cause `c`, the
bit consumed (42_header_parser.md R181, R188). -/
abbrev checksMarker (i : Instr) (c : Cause) (next : BitVec 6) (s : State) : Prop :=
  truncates i 1 s ∧
    (s.readable 1 →
      exec i s = .next (if streamBit s.inBuf s.pos then { s with pos := s.pos + 1, phase := next }
        else { s with pos := s.pos + 1 }.failure .malformed c))

/-- RegRead of register `n` returns the 64-bit value `v` and changes nothing but the port's output
(60_exceptions.md R271). -/
abbrev State.reads (s : State) (n : BitVec 8) (v : BitVec 64) : Prop :=
  exec (.regRead n) s = .next { s with out := .register v }

/-- RegRead of register `n` is the model fault ReadPoison of the register (60_exceptions.md R259). -/
abbrev State.readFaults (s : State) (n : BitVec 8) (r : RegName) : Prop :=
  exec (.regRead n) s = .fault (.readPoison r)

/-- RegRead of a register that may be POISON: its value, zero-extended to 64 bits, or the fault (10_state.md R29). -/
abbrev State.readsOrFaults {n : Nat} (s : State) (k : BitVec 8) (r : RegName) (v : Poisonable (BitVec n)) : Prop :=
  (∀ x, v = .val x → s.reads k (x.setWidth 64)) ∧ (v = .poison → s.readFaults k r)

/-- The rows of 30_encoding.md R96 with one branch: the PHASE code and the phase. P_PAYLOAD (0x21) has two. -/
def phaseRows : List (BitVec 6 × Instr) :=
  [(0x00, .idle), (0x01, .pStart), (0x02, .pSid), (0x03, .pLen), (0x04, .pFixed), (0x05, .pScr), (0x06, .pPri),
   (0x07, .pDai), (0x08, .pCpy), (0x09, .pOoc), (0x0A, .pPdf), (0x0B, .pEscrf), (0x0C, .pEsrf), (0x0D, .pDsmf),
   (0x0E, .pAcif), (0x0F, .pCrcf), (0x10, .pExtf), (0x11, .pHdl), (0x12, .pPtsPfx), (0x13, .pPtsHi),
   (0x14, .pPtsM0), (0x15, .pPtsMid), (0x16, .pPtsM1), (0x17, .pPtsLo), (0x18, .pPtsM2), (0x19, .pDtsPfx),
   (0x1A, .pDtsHi), (0x1B, .pDtsM0), (0x1C, .pDtsMid), (0x1D, .pDtsM1), (0x1E, .pDtsLo), (0x1F, .pDtsM2),
   (0x20, .pExtchk), (0x22, .pCommit)]

/-- The PHASE code of each phase that reads a field, and the field's stream-bit offset (30_encoding.md R82, R96). -/
def offsetRows : List (Nat × Nat) :=
  [(0x01, 0), (0x02, 24), (0x03, 32), (0x04, 48), (0x05, 50), (0x06, 52), (0x07, 53), (0x08, 54), (0x09, 55),
   (0x0A, 56), (0x0B, 58), (0x0C, 59), (0x0D, 60), (0x0E, 61), (0x0F, 62), (0x10, 63), (0x11, 64), (0x12, 72),
   (0x13, 76), (0x14, 79), (0x15, 80), (0x16, 95), (0x17, 96), (0x18, 111), (0x19, 112), (0x1A, 116), (0x1B, 119),
   (0x1C, 120), (0x1D, 135), (0x1E, 136), (0x1F, 151)]

/-- The PHASE code of each phase that checks its field, the cause of a bad one and END_POS then: just past the field
(60_exceptions.md R253; 42_header_parser.md R162, R165, R171, R179, R181, R183, R185, R186, R188, R190, R192). -/
def checkRows : List (Nat × Cause × Nat) :=
  [(0x01, .badStartCode, 24), (0x04, .badFixedBits, 50), (0x0A, .forbiddenPtsDts, 58), (0x12, .badPtsPrefix, 76),
   (0x14, .badPtsMarker, 80), (0x16, .badPtsMarker, 96), (0x18, .badPtsMarker, 112), (0x19, .badDtsPrefix, 116),
   (0x1B, .badDtsMarker, 120), (0x1D, .badDtsMarker, 136), (0x1F, .badDtsMarker, 152)]

/-- The word the host drives when it applies reset (60_exceptions.md R270). -/
abbrev resetTurn : Turn := .host ⟨.reset, []⟩

/-! ## The invariant -/

/-- The input buffer is canonical and has no address outside `IN` (20_memory.md R60, R61). -/
abbrev State.memoryInv (s : State) : Prop := Memory.wf s.inBuf ∧ ∀ x ∈ s.inBuf, x.1 < s.cfg.maxLen

/-- A register that may be POISON holds at most `k`. -/
def Poisonable.atMost (v : Poisonable Nat) (k : Nat) : Bool :=
  match v with
  | .poison => true
  | .val x => decide (x ≤ k)

/-- The position and length registers stay in their ranges, so that each fits its width PW or LW (10_state.md R23,
R25, R26). -/
abbrev State.boundsInv (s : State) : Prop :=
  s.len ≤ s.cfg.maxLen ∧ s.pos ≤ 8 * s.len ∧ s.endPos ≤ 8 * s.len ∧ Poisonable.atMost s.consumed s.len = true ∧
    Poisonable.atMost s.feedOffset s.len = true ∧ Poisonable.atMost s.feedLen s.len = true

/-- BUSY is 1 exactly when PHASE is not IDLE (10_state.md R31), DONE is 0 while BUSY is 1 (R32), PHASE holds no reserved
code (R22, 30_encoding.md R98), and no operation of an internal unit is pending (R104). -/
abbrev State.controlInv (s : State) : Prop :=
  s.status.busy = decide (s.phase ≠ Phase.idle.code) ∧ ¬(s.status.busy = true ∧ s.status.done = true) ∧
    s.phase.toNat ≤ 0x22 ∧ s.turns.all (fun t => !t.isUnit) = true

/-- The class bits of STATUS are those of HDR_STREAM_ID, or 0 where no header is committed (10_state.md R30, R39). -/
def State.classBitsInv (s : State) : Bool :=
  match s.hdr.streamId with
  | .poison => !s.status.isAudio && !s.status.isVideo && !s.status.isPadding && !s.status.hasOpt
  | .val id =>
    s.status.isAudio == isAudioStream id && s.status.isVideo == isVideoStream id
      && s.status.isPadding == isPaddingStream s.cfg.streamIds id
      && s.status.hasOpt == hasOptionalHeader s.cfg.streamIds id

/-- A register that may be POISON satisfies a condition where it holds a value. -/
def Poisonable.holds {α : Type} (v : Poisonable α) (p : α → Bool) : Bool :=
  match v with
  | .poison => true
  | .val x => p x

/-- The header and feed registers hold a value exactly where their STATUS bit says so, and the committed values are what
R47 to R51 say they always are. -/
abbrev State.registersInv (s : State) : Prop :=
  s.hdr.startCode.isVal = s.status.hdrPresent ∧ s.hdr.streamId.isVal = s.status.hdrPresent ∧
  s.hdr.packetLength.isVal = s.status.hdrPresent ∧
  s.hdr.flags1.isVal = s.status.optPresent ∧ s.hdr.flags2.isVal = s.status.optPresent ∧
  s.hdr.hdl.isVal = s.status.optPresent ∧
  s.hdr.pts.isVal = s.status.ptsPresent ∧ s.hdr.dts.isVal = s.status.dtsPresent ∧
  s.feedOffset.isVal = s.status.fed ∧ s.feedLen.isVal = s.status.fed ∧
  Poisonable.holds s.hdr.startCode (· == 0x000001) = true ∧
  Poisonable.holds s.hdr.flags1 (fun b => b.extractLsb' 6 2 == 0b10) = true ∧
  Poisonable.holds s.hdr.flags2 (fun b => b.extractLsb' 0 6 == 0 && b.extractLsb' 6 2 != 0b01
    && s.status.ptsPresent == (timestampFields (b.extractLsb' 6 2)).hasPts
    && s.status.dtsPresent == (timestampFields (b.extractLsb' 6 2)).hasDts) = true ∧
  (s.status.optPresent = false → s.status.ptsPresent = false ∧ s.status.dtsPresent = false) ∧
  s.status.optPresent = s.status.hasOpt ∧ s.classBitsInv = true

/-- The result kind a cause belongs to (30_encoding.md R101). -/
def Cause.resultOf : Cause → Result
  | .none => .ok
  | .badStartCode | .badFixedBits | .forbiddenPtsDts | .badPtsPrefix | .badPtsMarker | .badDtsPrefix
  | .badDtsMarker => .malformed
  | .extFlagSet => .unsupported
  | .shortField | .shortPadding => .truncated

/-- The result fields of STATUS: all 0 while DONE is 0 but for FED (10_state.md R32, R38); once DONE is 1, the cause is
one of the result's, FAIL_PHASE is 0 exactly for OK (R40), VALID is that of R34, a header is present exactly after a
start parse that ended OK (R35), and a continuation parse ended OK (60_exceptions.md R254). -/
abbrev State.verdictInv (s : State) : Prop :=
  (s.status.done = false → s.status = { Status.zero with busy := s.status.busy, fed := s.status.fed }) ∧
  (s.status.done = true →
    s.status.cause.resultOf = s.status.result ∧
    (s.status.failPhase = 0 ↔ s.status.result = .ok) ∧
    (s.cmdStart = false → s.status.result = .ok) ∧
    s.status.hdrPresent = (s.cmdStart && decide (s.status.result = .ok)) ∧
    s.status.valid = (if s.cmdStart then decide (s.status.result = .ok) else s.cfg.contValid))

/-- CONSUMED and FED are written by P_PAYLOAD and by nothing before it (10_state.md R38, R44). -/
abbrev State.payloadInv (s : State) : Prop :=
  s.status.busy = true →
    if s.phase = Phase.pCommit.code then s.consumed.isVal = true
    else s.consumed = .poison ∧ s.status.fed = false

/-- Whether the working stream id has an optional header. -/
def State.wkHasOpt (s : State) : Bool :=
  match s.wk.streamId with
  | .poison => false
  | .val id => hasOptionalHeader s.cfg.streamIds id

/-- The fields that follow by the working flags. -/
def State.wkFields (s : State) : TimestampFields :=
  match s.wk.ptsDtsFlags with
  | .poison => .noTimestamp
  | .val f => timestampFields f

/-- The bit position a start parse has in each phase: the offset of the phase's field (30_encoding.md R82), or the
header's length from P_EXTCHK on (R92). -/
def State.phasePos (s : State) : Nat :=
  if s.phase = Phase.pExtchk.code ∨ s.phase = Phase.pPayload.code then 8 * headerBytes s.wkHasOpt s.wkFields
  else fieldOffset s.phase.toNat

/-- The phase with code `k` lies behind a start parse that stands in PHASE. -/
abbrev State.past (s : State) (k : Nat) : Prop := k < s.phase.toNat

/-- The fixed part a start parse has decoded (10_state.md R27; 30_encoding.md R96). The phases of the flag cluster and of
the timestamps run only for a stream id with an optional header (R84). -/
abbrev State.fixedPartInv (s : State) : Prop :=
  (s.past 0x01 → s.wk.startCode = .val 0x000001) ∧
  (s.past 0x02 → s.wk.streamId.isVal = true) ∧
  (s.past 0x03 → s.wk.packetLength.isVal = true) ∧
  (s.past 0x03 → s.phase.toNat < 0x21 → s.wkHasOpt = true)

/-- The flag cluster a start parse with an optional header has decoded. Under FailFast the forbidden flags have ended it
(42_header_parser.md R171). -/
abbrev State.flagClusterInv (s : State) : Prop :=
  (s.past 0x04 → s.wk.fixed = .val 0b10) ∧
  (s.past 0x05 → s.wk.scrambling.isVal = true) ∧
  (s.past 0x06 → s.wk.priority.isVal = true) ∧
  (s.past 0x07 → s.wk.dai.isVal = true) ∧
  (s.past 0x08 → s.wk.copyright.isVal = true) ∧
  (s.past 0x09 → s.wk.original.isVal = true) ∧
  (s.past 0x0A → s.wk.ptsDtsFlags.isVal = true) ∧
  (s.past 0x0A → s.cfg.forbiddenPolicy = .failFast → s.wk.ptsDtsFlags ≠ .val 0b01) ∧
  (s.past 0x0B → s.wk.escrFlag.isVal = true) ∧
  (s.past 0x0C → s.wk.esRateFlag.isVal = true) ∧
  (s.past 0x0D → s.wk.dsmTrickFlag.isVal = true) ∧
  (s.past 0x0E → s.wk.aciFlag.isVal = true) ∧
  (s.past 0x0F → s.wk.crcFlag.isVal = true) ∧
  (s.past 0x10 → s.wk.extFlag.isVal = true) ∧
  (s.past 0x11 → s.wk.hdl.isVal = true)

/-- The timestamps a start parse with an optional header has decoded: the phases of a field run only where the flags say
it follows (30_encoding.md R86, R97), and past P_EXTCHK no extension flag is set (43_payload_result.md R220). -/
abbrev State.timestampsInv (s : State) : Prop :=
  (s.past 0x11 → s.phase.toNat < 0x20 → s.wkFields.hasPts = true) ∧
  (s.past 0x18 → s.phase.toNat < 0x20 → s.wkFields.hasDts = true) ∧
  (s.wkFields.hasPts = true →
    (s.past 0x13 → s.wk.ptsHi.isVal = true) ∧ (s.past 0x15 → s.wk.ptsMid.isVal = true) ∧
    (s.past 0x17 → s.wk.ptsLo.isVal = true) ∧ (s.past 0x18 → s.wk.pts.isVal = true)) ∧
  (s.wkFields.hasDts = true →
    (s.past 0x1A → s.wk.dtsHi.isVal = true) ∧ (s.past 0x1C → s.wk.dtsMid.isVal = true) ∧
    (s.past 0x1E → s.wk.dtsLo.isVal = true) ∧ (s.past 0x1F → s.wk.dts.isVal = true)) ∧
  (s.past 0x20 → s.wk.extFlags = .ok 0)

/-- What a start parse has decoded when it stands in PHASE: each field of `Wk` that an earlier phase of its path writes
holds a value, and checked values are what the checks demand (30_encoding.md R97). -/
abbrev State.decodedInv (s : State) : Prop :=
  s.fixedPartInv ∧ (s.wkHasOpt = true → s.past 0x03 → s.flagClusterInv ∧ s.timestampsInv)

/-- Where a running parse stands: a start parse has decoded what its phase needs and POS is its phase's; a continuation
parse runs only P_PAYLOAD, from bit 0, and P_COMMIT (30_encoding.md R97, 42_header_parser.md R161). -/
abbrev State.progressInv (s : State) : Prop :=
  s.phase ≠ Phase.idle.code →
    if s.cmdStart then
      s.decodedInv ∧ (s.phase ≠ Phase.pCommit.code → s.pos = s.phasePos)
    else
      (s.phase = Phase.pPayload.code ∧ s.pos = 0) ∨ s.phase = Phase.pCommit.code

/-- The invariant of PESP. -/
abbrev State.Inv (s : State) : Prop :=
  s.cfg.wf = true ∧ s.memoryInv ∧ s.boundsInv ∧ s.controlInv ∧ s.registersInv ∧ s.verdictInv ∧ s.payloadInv ∧
    s.progressInv

end Sys2Proof.Machine
end

