-- ==== Sys2Proof/Certificates/Slice0/Obligations.lean ====
section
/-! DEFINITION. Certificates/Slice0/Obligations.lean: the statements for the provers. Results are written as whole next
states, so that each says what changes and that nothing else does. -/

open Sys2Proof Sys2Proof.Machine

/-! ## Encoding -/

/-- Words written out from the spec's selectors decode to the instruction they stand for (30_encoding.md R80, R86, R94,
R96, R104; 41_classifier.md R140). All are read under the parameters of `State.reset`, two of which are no rule of the
spec: MAX_LEN = 256, the model's choice (notes/assumptions/2.md), which gives `len` 9 bits, so two bytes; and 0xBE for
PaddingStream, from general knowledge (notes/assumptions/18.md). The operand layout is the model's choice,
notes/assumptions/3.md. -/
def Obligations.SpecWordsDecode : Prop :=
  decode Config.standard ⟨.command, [0x01, 0x15, 0x00]⟩ = .ok (.parseS 21) ∧
  decode Config.standard ⟨.command, [0x00, 0x00, 0x01]⟩ = .ok (.parseC 256) ∧
  decode Config.standard ⟨.command, [0x02, 0x00, 0x00]⟩ = .error .reservedBits ∧
  decode Config.standard ⟨.reader, [0b10]⟩ = .ok .bytesLeft ∧
  decode Config.standard ⟨.isAudio, [0xC5]⟩ = .ok (.isAudioStream 0xC5) ∧
  decode Config.standard ⟨.streamId, [0xBE]⟩ = .ok .sidPadding ∧
  decode Config.standard ⟨.streamId, [0xE7]⟩ = .ok (.sidVideo 7) ∧
  decode Config.standard ⟨.ptsDtsFlags, [0x40]⟩ = .ok (.pdfForbidden 0) ∧
  decode Config.standard ⟨.phase, [0x12]⟩ = .ok .pPtsPfx ∧
  decode Config.standard ⟨.phase, [0x23]⟩ = .ok (.phaseReserved 0x23)

/-- The decoder reads back every well-formed instruction from its word, under all parameters (R80, R86, R94, R96,
R104). The words are the model's layout, notes/assumptions/3.md, 4.md, 15.md and
27.md. -/
def Obligations.DecodeEncodeAgree : Prop :=
  ∀ (c : Config) (i : Instr), i.wf c = true → decode c (encode c i) = .ok i

/-- A word that decodes is the word of a well-formed instruction: no bit of a word is dropped, and no two words mean the
same (R80, R86, R94, R96, R104). The words are the model's layout, notes/assumptions/3.md, 4.md, 15.md and
27.md. -/
def Obligations.EncodeDecodeAgree : Prop :=
  ∀ (c : Config) (w : PortWord) (i : Instr), decode c w = .ok i → i.wf c = true ∧ encode c i = w

/-! ## The step -/

/-- A pending word of a port is what the step runs, and the host can drive no internal selector (R104, R270). The list
of turns is the model's own, notes/assumptions/1.md and 8.md. -/
def Obligations.StepRunsThePortWord : Prop :=
  ∀ (s : State) (w : PortWord) (rest : List Turn) (i : Instr),
    (s.turns = .host w :: rest → w.port.isHost = true → decode s.cfg w = .ok i →
      step s = exec i { s with turns := rest }) ∧
    (s.turns = .unit w :: rest → w.port.isUnit = true → decode s.cfg w = .ok i →
      step s = exec i { s with turns := rest }) ∧
    (s.turns = .host w :: rest → w.port.isHost = false → step s = .refused (.notHostPort w.port))

/-- A turn of PESP runs exactly the rule of the phase in PHASE (42_header_parser.md R194), with the codes of R96; in
P_PAYLOAD the state selects the branch (R224, R225). That the turn leaves the list of turns is the model's own,
notes/assumptions/1.md; and so is the turn of PESP in IDLE, code 0x00, which R194 does not give: notes/assumptions/22.md. -/
def Obligations.StepRunsThePhase : Prop :=
  ∀ s : State, s.pespTurn = true →
    (∀ r ∈ phaseRows,
      s.phase = r.1 → step s = exec r.2 { s with turns := s.turns.tail }) ∧
    (s.phase = 0x21 → s.cmdStart = false → step s = exec .pPayloadFwd { s with turns := s.turns.tail }) ∧
    (∀ id, s.phase = 0x21 → s.cmdStart = true → s.wk.streamId = .val id → id = s.cfg.streamIds.paddingStream →
      step s = exec .pPayloadPad { s with turns := s.turns.tail }) ∧
    (∀ id, s.phase = 0x21 → s.cmdStart = true → s.wk.streamId = .val id → id ≠ s.cfg.streamIds.paddingStream →
      step s = exec .pPayloadFwd { s with turns := s.turns.tail })

/-! ## Commands -/

/-- Command acceptance: BUSY first, then the length, then the accept, for both commands (42_header_parser.md R159;
10_state.md R24, R25). -/
def Obligations.CommandAcceptance : Prop :=
  ∀ (s : State) (len : Nat) (start : Bool) (i : Instr),
    (start = true ∧ i = .parseS len) ∨ (start = false ∧ i = .parseC len) →
    (s.status.busy = true →
      exec i s = .next { s with faultReg := { s.faultReg with cmdWhileBusy := true } }) ∧
    (s.status.busy = false → s.cfg.maxLen < len →
      exec i s = .next { s with faultReg := { s.faultReg with lenOverMax := true } }) ∧
    (s.status.busy = false → len ≤ s.cfg.maxLen →
      exec i s = .next
        { s with
          cmdStart := start, len := len, pos := 0, wk := Wk.poison, hdr := Hdr.poison
          status := { Status.zero with busy := true }
          endPos := 0, consumed := .poison, feedOffset := .poison, feedLen := .poison
          phase := if start then 0x01 else 0x21 })

/-! ## The host ports -/

/-- `InWrite(a, b)`: with BUSY = 0 it sets one byte and every other byte reads as before; with BUSY = 1 it only sets
FAULT.IN_WRITE_WHILE_BUSY; an address outside `IN` is the model fault HostProtocol(IN_ADDR) (20_memory.md R61, R62). -/
def Obligations.InWriteStoresOneByte : Prop :=
  ∀ (s : State) (a : Nat) (b : Byte),
    (a < s.cfg.maxLen → s.status.busy = false →
      ∃ m, exec (.inWrite a b) s = .next { s with inBuf := m } ∧ Memory.read m a = .val b ∧
        (∀ a', a' ≠ a → Memory.read m a' = Memory.read s.inBuf a') ∧ (Memory.wf s.inBuf → Memory.wf m)) ∧
    (a < s.cfg.maxLen → s.status.busy = true →
      exec (.inWrite a b) s = .next { s with faultReg := { s.faultReg with inWriteWhileBusy := true } }) ∧
    (s.cfg.maxLen ≤ a → s.status.busy = false → exec (.inWrite a b) s = .fault (.hostProtocolInAddr a))

/-- Where an `InWrite` is both out of range and during a parse, the model takes the model fault: its own choice between
R61 and R62, notes/assumptions/12.md. -/
def Obligations.InWriteOutOfRangeWhileBusy : Prop :=
  ∀ (s : State) (a : Nat) (b : Byte), s.cfg.maxLen ≤ a → s.status.busy = true →
    exec (.inWrite a b) s = .fault (.hostProtocolInAddr a)

/-- RegRead returns the register of the number, zero-extended to 64 bits, 0 for a number with no register, the model
fault for a register that is POISON, and changes nothing else (60_exceptions.md R271, 10_state.md R29). CONSUMED and the feed registers
are those with BUSY = 0; for BUSY = 1 see ResultsPoisonWhileBusy. A length register wider than 64 bits gives its low 64
bits, the model's choice, notes/assumptions/20.md. -/
def Obligations.RegReadReturnsTheRegister : Prop :=
  ∀ s : State,
    s.reads 0x00 (s.status.readWord.setWidth 64) ∧ s.reads 0x01 (s.faultReg.word.setWidth 64) ∧
    s.reads 0x02 (if s.cmdStart then 1 else 0) ∧ s.reads 0x03 (BitVec.ofNat 64 s.len) ∧
    s.reads 0x04 (BitVec.ofNat 64 s.endPos) ∧
    (s.status.busy = false →
      (∀ x, s.consumed = .val x → s.reads 0x05 (BitVec.ofNat 64 x)) ∧
      (s.consumed = .poison → s.readFaults 0x05 .consumed) ∧
      (∀ x, s.feedOffset = .val x → s.reads 0x06 (BitVec.ofNat 64 x)) ∧
      (s.feedOffset = .poison → s.readFaults 0x06 .feedOffset) ∧
      (∀ x, s.feedLen = .val x → s.reads 0x07 (BitVec.ofNat 64 x)) ∧
      (s.feedLen = .poison → s.readFaults 0x07 .feedLen)) ∧
    s.readsOrFaults 0x08 .hdrStartCode s.hdr.startCode ∧ s.readsOrFaults 0x09 .hdrStreamId s.hdr.streamId ∧
    s.readsOrFaults 0x0A .hdrPacketLength s.hdr.packetLength ∧ s.readsOrFaults 0x0B .hdrFlags1 s.hdr.flags1 ∧
    s.readsOrFaults 0x0C .hdrFlags2 s.hdr.flags2 ∧ s.readsOrFaults 0x0D .hdrHdl s.hdr.hdl ∧
    s.readsOrFaults 0x0E .hdrPts s.hdr.pts ∧ s.readsOrFaults 0x0F .hdrDts s.hdr.dts ∧
    (∀ n : BitVec 8, 0x10 ≤ n.toNat → s.reads n 0)

/-- While a parse runs, a read of CONSUMED, the feed registers or a header register is the model fault ReadPoison, in
every state that meets the invariant (70_reset_and_hazards.md R296). For CONSUMED and the feed registers, which P_PAYLOAD
writes one step before DONE, this is read from R296: notes/assumptions/13.md. -/
def Obligations.ResultsPoisonWhileBusy : Prop :=
  ∀ s : State, s.Inv → s.status.busy = true →
    ∀ n : BitVec 8, 0x05 ≤ n.toNat → n.toNat ≤ 0x0F → ∃ r, s.readFaults n r

/-- The STATUS word as the read port gives it: BUSY in bit 0; every other bit 0 while DONE is 0 (10_state.md R32); with
DONE = 1 each field of R30 at its place with the codes of R100 and R101, and the reserved bits 0 (R41). That FED reads 0
too while DONE is 0 is read from R32: notes/assumptions/14.md. -/
def Obligations.StatusWordLayout : Prop :=
  ∀ s : State, ∃ v : BitVec 64, s.reads 0x00 v ∧ v.getLsbD 0 = s.status.busy ∧
    (s.status.done = false → ∀ i, 1 ≤ i → v.getLsbD i = false) ∧
    (s.status.done = true →
      v.getLsbD 1 = true ∧
      v.extractLsb' 2 2 = (match s.status.result with
        | .ok => 0 | .malformed => 1 | .unsupported => 2 | .truncated => 3) ∧
      v.getLsbD 4 = s.status.valid ∧ v.getLsbD 5 = s.status.hdrPresent ∧ v.getLsbD 6 = s.status.optPresent ∧
      v.getLsbD 7 = s.status.ptsPresent ∧ v.getLsbD 8 = s.status.dtsPresent ∧ v.getLsbD 9 = s.status.fed ∧
      v.getLsbD 10 = s.status.isAudio ∧ v.getLsbD 11 = s.status.isVideo ∧ v.getLsbD 12 = s.status.isPadding ∧
      v.getLsbD 13 = s.status.hasOpt ∧ v.extractLsb' 14 2 = 0 ∧
      v.extractLsb' 16 4 = (match s.status.cause with
        | .none => 0 | .badStartCode => 1 | .badFixedBits => 2 | .forbiddenPtsDts => 3 | .badPtsPrefix => 4
        | .badPtsMarker => 5 | .badDtsPrefix => 6 | .badDtsMarker => 7 | .extFlagSet => 8 | .shortField => 9
        | .shortPadding => 10) ∧
      v.extractLsb' 20 6 = s.status.failPhase ∧ ∀ i, 26 ≤ i → v.getLsbD i = false)

/-- FAULT: its three bits and nothing else are in the word that register 0x01 reads, and a bit once set stays set over
every step but reset (10_state.md R42). What sets each bit is in CommandAcceptance and InWriteStoresOneByte. -/
def Obligations.FaultIsSticky : Prop :=
  (∀ s : State, ∃ v : BitVec 64, s.reads 0x01 v ∧ v.getLsbD 0 = s.faultReg.cmdWhileBusy ∧
    v.getLsbD 1 = s.faultReg.lenOverMax ∧ v.getLsbD 2 = s.faultReg.inWriteWhileBusy ∧
    ∀ i, 3 ≤ i → v.getLsbD i = false) ∧
  ∀ s t : State, step s = .next t → s.turns.head? ≠ some resetTurn →
    (s.faultReg.cmdWhileBusy = true → t.faultReg.cmdWhileBusy = true) ∧
    (s.faultReg.lenOverMax = true → t.faultReg.lenOverMax = true) ∧
    (s.faultReg.inWriteWhileBusy = true → t.faultReg.inWriteWhileBusy = true)

/-- The CLASSIFY port gives the four predicates and the class, the first row of the stream-id map that matches, at any
time, and changes nothing but the port's output (41_classifier.md R144, R145). -/
def Obligations.ClassifyPort : Prop :=
  ∀ (s : State) (id : Byte),
    let t := s.cfg.streamIds;
    exec (.classify id) s = .next
      { s with
        out := .classified (decide (0xC0 ≤ id.toNat ∧ id.toNat ≤ 0xDF)) (decide (0xE0 ≤ id.toNat ∧ id.toNat ≤ 0xEF))
          (decide (id = t.paddingStream))
          (decide (id ≠ t.programStreamMap ∧ id ≠ t.paddingStream ∧ id ≠ t.privateStream2 ∧ id ≠ t.ecmStream ∧
            id ≠ t.emmStream ∧ id ≠ t.programStreamDirectory ∧ id ≠ t.dsmccStream ∧ id ≠ t.ituTH2221E))
          (if id = t.programStreamMap then .psm else if id = t.paddingStream then .padding
            else if id = t.privateStream2 then .priv2 else if id = t.ecmStream then .ecm
            else if id = t.emmStream then .emm else if id = t.dsmccStream then .dsmcc
            else if id = t.ituTH2221E then .h2221e else if id = t.programStreamDirectory then .psd
            else if 0xC0 ≤ id.toNat ∧ id.toNat ≤ 0xDF then .audio
            else if 0xE0 ≤ id.toNat ∧ id.toNat ≤ 0xEF then .video else .other) }

/-! ## The classifier -/

/-- The four predicates as operations, by the ranges their corner cases name, and the audio and video predicates are
never both true (41_classifier.md R140 to R143, R146). The value stands in the model's output latch,
notes/assumptions/7.md. -/
def Obligations.PredicatesByRange : Prop :=
  (∀ (s : State) (id : Byte),
    let t := s.cfg.streamIds;
    exec (.isAudioStream id) s = .next { s with out := .bit (decide (0xC0 ≤ id.toNat ∧ id.toNat ≤ 0xDF)) } ∧
    exec (.isVideoStream id) s = .next { s with out := .bit (decide (0xE0 ≤ id.toNat ∧ id.toNat ≤ 0xEF)) } ∧
    exec (.isPaddingStream id) s = .next { s with out := .bit (decide (id = t.paddingStream)) } ∧
    exec (.hasOptionalHeader id) s = .next
      { s with out := .bit (decide (id ∉ [t.programStreamMap, t.paddingStream, t.privateStream2, t.ecmStream,
          t.emmStream, t.programStreamDirectory, t.dsmccStream, t.ituTH2221E])) }) ∧
  ∀ id : Byte, ¬(isAudioStream id = true ∧ isVideoStream id = true)

/-- The rows of the stream-id map: each answers its class and columns and selects its path (30_encoding.md R94). That a
row acts on PHASE is the model's reading of "The stream-id byte selects the phase path", notes/assumptions/9.md. -/
def Obligations.StreamIdRowsSelectThePath : Prop :=
  ∀ (s : State) (a : BitVec 5) (v : BitVec 4) (o : Byte),
    (∀ r ∈ ([(.sidPsm, .psm, false), (.sidPadding, .padding, true), (.sidPriv2, .priv2, false),
        (.sidEcm, .ecm, false), (.sidEmm, .emm, false), (.sidDsmcc, .dsmcc, false), (.sidH2221e, .h2221e, false),
        (.sidPsd, .psd, false)] : List (Instr × StreamClass × Bool)),
      exec r.1 s = .next { s with phase := 0x21, out := .streamRow r.2.1 false r.2.2 .pPayload }) ∧
    (∀ r ∈ ([(.sidAudio a, .audio), (.sidVideo v, .video), (.sidOther o, .other)] : List (Instr × StreamClass)),
      exec r.1 s = .next { s with phase := 0x04, out := .streamRow r.2 true false .pFixed })

/-- Under a table of distinct ids, the row an id decodes to has the columns the predicates compute and selects the
successor that P_LEN selects (R94, R142, R143, 42_header_parser.md R164; the rows' action is notes/assumptions/9.md). -/
def Obligations.StreamIdRowsAgreeWithPLen : Prop :=
  ∀ (s t u : State) (id : Byte) (i : Instr), s.cfg.wf = true → s.wk.streamId = .val id →
    decode s.cfg ⟨.streamId, [id]⟩ = .ok i → exec i s = .next t → s.readable 16 → exec .pLen s = .next u →
    t.phase = u.phase ∧
    ∃ c p, t.out = .streamRow c (hasOptionalHeader s.cfg.streamIds id) (isPaddingStream s.cfg.streamIds id) p

/-- The rows of the PTS_DTS_flags table: the fields that follow and the outcome (30_encoding.md R86), as P_PDF acts on the
value (42_header_parser.md R171). That a row is an operation is the model's reading, notes/assumptions/10.md. -/
def Obligations.PtsDtsFlagsRows : Prop :=
  ∀ (s : State) (ext : BitVec 6),
    (∀ r ∈ ([(.pdfNone ext, 0b00, .noTimestamp), (.pdfPts ext, 0b10, .pts), (.pdfPtsDts ext, 0b11, .ptsDts)] :
        List (Instr × BitVec 2 × TimestampFields)),
      exec r.1 s = .next
        { s with wk := { s.wk with ptsDtsFlags := .val r.2.1 }, phase := 0x0B, out := .flagsRow r.2.2 false }) ∧
    (s.cfg.forbiddenPolicy = .lateVerdict → exec (.pdfForbidden ext) s = .next
      { s with wk := { s.wk with ptsDtsFlags := .val 0b01 }, phase := 0x0B, out := .flagsRow .noTimestamp true }) ∧
    (s.cfg.forbiddenPolicy = .failFast → exec (.pdfForbidden ext) s = .next
      ({ s with wk := { s.wk with ptsDtsFlags := .val 0b01 }, out := .flagsRow .noTimestamp true }.failure
        .malformed .forbiddenPtsDts))

/-! ## Reset -/

/-- RESET, at any time, sets every state element to its reset value, so that every byte of `IN` is POISON and no event
is left (70_reset_and_hazards.md R290; the values of 10_state.md section 7). What it does to the model's own fields is
left open here (notes/assumptions/21.md). -/
def Obligations.ResetAction : Prop :=
  ∀ s : State, ∃ ts o, exec .reset s = .next
    { cfg := s.cfg, phase := 0x00, pos := 0, cmdStart := false, len := 0, wk := Wk.poison, status := Status.zero
      faultReg := FaultReg.zero, endPos := 0, consumed := .val 0, feedOffset := .poison, feedLen := .poison
      hdr := Hdr.poison, inBuf := [], sinkLog := [], turns := ts, out := o } ∧
    ∀ a, Memory.read [] a = .poison

/-- What a host reads right after reset: 0 in registers 0x00 to 0x05, the model fault ReadPoison in 0x06 to 0x0F
(R292; 10_state.md R44 for CONSUMED). -/
def Obligations.ResetObservation : Prop :=
  ∀ s t : State, exec .reset s = .next t → ∀ n : BitVec 8,
    (n.toNat ≤ 0x05 → t.reads n 0) ∧ (0x06 ≤ n.toNat → n.toNat ≤ 0x0F → ∃ r, t.readFaults n r)

/-! ## The Bit Reader -/

/-- `ReadBits(n)`: a field that fits and is written is returned with its first bit the most significant, and POS moves
on by `n`; a field that does not fit ends TRUNCATED SHORT_FIELD and consumes nothing; a byte never written is the model
fault; a width outside `1..READ_WIDTH` is refused (40_bit_reader.md R121, R122, R128; 20_memory.md R63). That the
primitive run alone ends the parse itself, with FAIL_PHASE = PHASE, is the model's reading: notes/assumptions/26.md. -/
def Obligations.ReadBitsReadsTheField : Prop :=
  ∀ (s : State) (n : Nat),
    (s.readable n → ∃ v, exec (.readBits n) s = .next { s with pos := s.pos + n, out := .bits v } ∧ v < 2 ^ n ∧
      ∀ k b, k < n → Memory.read s.inBuf ((s.pos + k) / 8) = .val b →
        v.testBit (n - 1 - k) = b.getLsbD (7 - (s.pos + k) % 8)) ∧
    (1 ≤ n → truncates (.readBits n) n s) ∧
    (1 ≤ n → n ≤ s.cfg.readWidth → s.pos + n ≤ 8 * s.len → ¬s.readable n →
      ∃ a, exec (.readBits n) s = .fault (.inUnwritten a) ∧ Memory.read s.inBuf a = .poison ∧ s.pos / 8 ≤ a ∧
        8 * a < s.pos + n) ∧
    (n = 0 ∨ s.cfg.readWidth < n → exec (.readBits n) s = .refused (.readerWidth n))

/-- `ReadBit()` returns the next stream bit as a boolean and moves POS by 1; at the end of the range, whatever stands in
`IN` there, it ends TRUNCATED and consumes nothing; a byte of the range never written is the model fault InUnwritten
(40_bit_reader.md R121, R123; 20_memory.md R63). That the primitive run alone ends the parse itself, with
FAIL_PHASE = PHASE, is the model's reading: notes/assumptions/26.md. -/
def Obligations.ReadBitReadsOneBit : Prop :=
  ∀ s : State,
    (∀ b, 1 ≤ s.cfg.readWidth → s.pos < 8 * s.len → Memory.read s.inBuf (s.pos / 8) = .val b →
      exec .readBit s = .next { s with pos := s.pos + 1, out := .bit (b.getLsbD (7 - s.pos % 8)) }) ∧
    truncates .readBit 1 s ∧
    (1 ≤ s.cfg.readWidth → s.pos < 8 * s.len → Memory.read s.inBuf (s.pos / 8) = .poison →
      exec .readBit s = .fault (.inUnwritten (s.pos / 8)))

/-- `BytesLeft()` counts the whole bytes not yet consumed, `Current()` is the next byte's offset at a byte boundary and a
model fault off one; neither writes state but the output latch (40_bit_reader.md R124, R125; the latch is
notes/assumptions/7.md). -/
def Obligations.BytesLeftAndCurrent : Prop :=
  ∀ s : State,
    exec .bytesLeft s = .next { s with out := .count ((8 * s.len - s.pos) / 8) } ∧
    (s.pos % 8 = 0 → (8 * s.len - s.pos) / 8 = s.len - s.pos / 8) ∧
    (s.pos % 8 = 0 → exec .current s = .next { s with out := .count (s.pos / 8) }) ∧
    (s.pos % 8 ≠ 0 → exec .current s = .fault .notByteAligned)

/-- Multi-byte fields are big-endian, and a field that straddles takes its high bits from the earlier part
(20_memory.md R65): the 16-bit packet length is `(IN[4] << 8) | IN[5]`, the 24-bit start code
`(IN[0] << 16) | (IN[1] << 8) | IN[2]`. -/
def Obligations.FieldsAreBigEndian : Prop :=
  ∀ (s : State) (b0 b1 b2 b4 b5 : Byte) (i n k : Nat), 24 ≤ s.cfg.readWidth → 6 ≤ s.len →
    Memory.read s.inBuf 0 = .val b0 → Memory.read s.inBuf 1 = .val b1 → Memory.read s.inBuf 2 = .val b2 →
    Memory.read s.inBuf 4 = .val b4 → Memory.read s.inBuf 5 = .val b5 →
    (s.pos = 0 → exec (.readBits 24) s = .next { s with pos := 24, out := .bits ((b0 ++ b1 ++ b2).toNat) }) ∧
    (s.pos = 32 → exec (.readBits 16) s = .next { s with pos := 48, out := .bits ((b4 ++ b5).toNat) }) ∧
    streamValue s.inBuf i (n + k) = streamValue s.inBuf i n * 2 ^ k + streamValue s.inBuf (i + n) k

/-! ## The header phases -/

/-- P_START and P_FIXED check the field they read: the start code against 0x000001, the fixed pattern against 0b10, and
fail just past the field (42_header_parser.md R162, R165). -/
def Obligations.FixedPatternsChecked : Prop :=
  ∀ s : State,
    truncates .pStart 24 s ∧
    (s.readable 24 →
      let v := streamValue s.inBuf s.pos 24;
      let u := { s with wk := { s.wk with startCode := .val (BitVec.ofNat 24 v) }, pos := s.pos + 24 };
      exec .pStart s = .next (if v = 0x000001 then { u with phase := 0x02 } else u.failure .malformed .badStartCode)) ∧
    truncates .pFixed 2 s ∧
    (s.readable 2 →
      let v := streamValue s.inBuf s.pos 2;
      let u := { s with wk := { s.wk with fixed := .val (BitVec.ofNat 2 v) }, pos := s.pos + 2 };
      exec .pFixed s = .next (if v = 0b10 then { u with phase := 0x05 } else u.failure .malformed .badFixedBits))

/-- The phases that record their field without a check: the stream id and the flag cluster's other fields
(42_header_parser.md R163, R166 to R170, R172 to R177). -/
def Obligations.HeaderFieldsRecorded : Prop :=
  ∀ s : State,
    recordsField .pSid 8 (fun v w => { w with streamId := .val v }) 0x03 s ∧
    recordsField .pScr 2 (fun v w => { w with scrambling := .val v }) 0x06 s ∧
    recordsField .pPri 1 (fun v w => { w with priority := .val v }) 0x07 s ∧
    recordsField .pDai 1 (fun v w => { w with dai := .val v }) 0x08 s ∧
    recordsField .pCpy 1 (fun v w => { w with copyright := .val v }) 0x09 s ∧
    recordsField .pOoc 1 (fun v w => { w with original := .val v }) 0x0A s ∧
    recordsField .pEscrf 1 (fun v w => { w with escrFlag := .val v }) 0x0C s ∧
    recordsField .pEsrf 1 (fun v w => { w with esRateFlag := .val v }) 0x0D s ∧
    recordsField .pDsmf 1 (fun v w => { w with dsmTrickFlag := .val v }) 0x0E s ∧
    recordsField .pAcif 1 (fun v w => { w with aciFlag := .val v }) 0x0F s ∧
    recordsField .pCrcf 1 (fun v w => { w with crcFlag := .val v }) 0x10 s ∧
    recordsField .pExtf 1 (fun v w => { w with extFlag := .val v }) 0x11 s

/-- P_LEN records the packet length, with no check, and goes on to P_FIXED for an id outside NOHDR and to P_PAYLOAD for
the eight others; P_HDL records the header-data-length, with no check, and goes on to P_PTS_PFX for the flags 0b10 and
0b11 and to P_EXTCHK for 0b00 and 0b01 (42_header_parser.md R164, R178). -/
def Obligations.PathChoices : Prop :=
  ∀ (s : State) (id : Byte) (flags : BitVec 2),
    truncates .pLen 16 s ∧
    (s.readable 16 → s.wk.streamId = .val id → exec .pLen s = .next
      { s with
        wk := { s.wk with packetLength := .val (BitVec.ofNat 16 (streamValue s.inBuf s.pos 16)) }
        pos := s.pos + 16
        phase := if id ∈ s.cfg.streamIds.noHdr then 0x21 else 0x04 }) ∧
    truncates .pHdl 8 s ∧
    (s.readable 8 → s.wk.ptsDtsFlags = .val flags → exec .pHdl s = .next
      { s with
        wk := { s.wk with hdl := .val (BitVec.ofNat 8 (streamValue s.inBuf s.pos 8)) }
        pos := s.pos + 8
        phase := if flags = 0b10 ∨ flags = 0b11 then 0x12 else 0x20 })

/-- P_PDF records the flags; under FailFast the value 0b01 ends MALFORMED FORBIDDEN_PTS_DTS there; every other value, and
0b01 under LateVerdict, goes on; and a start parse that holds 0b01 never ends OK, so that VALID = 0
(42_header_parser.md R171). -/
def Obligations.ForbiddenFlags : Prop :=
  (∀ s : State, truncates .pPdf 2 s ∧
    (s.readable 2 →
      let v := streamValue s.inBuf s.pos 2;
      let u := { s with wk := { s.wk with ptsDtsFlags := .val (BitVec.ofNat 2 v) }, pos := s.pos + 2 };
      exec .pPdf s = .next
        (if v = 0b01 ∧ s.cfg.forbiddenPolicy = .failFast then u.failure .malformed .forbiddenPtsDts
          else { u with phase := 0x0B }))) ∧
  ∀ s t : State, s.Inv → s.pespTurn = true → s.cmdStart = true → 0x0A < s.phase.toNat → s.wkHasOpt = true →
    s.wk.ptsDtsFlags = .val 0b01 → step s = .next t →
    (t.status.done = true ∧ t.status.result ≠ .ok ∧ t.status.valid = false) ∨
    (t.status.done = false ∧ s.phase.toNat < t.phase.toNat ∧ t.cmdStart = true ∧ t.wkHasOpt = true ∧
      t.wk.ptsDtsFlags = .val 0b01)

/-- The prefix phases: the PTS prefix must equal the flags, zero-extended to 4 bits, the DTS prefix must be 0b0001; the
prefix is not kept (42_header_parser.md R179, R186; 30_encoding.md R88, R89). -/
def Obligations.PrefixesChecked : Prop :=
  ∀ (s : State) (flags : BitVec 2),
    truncates .pPtsPfx 4 s ∧
    (s.readable 4 → s.wk.ptsDtsFlags = .val flags → exec .pPtsPfx s = .next
      (if streamValue s.inBuf s.pos 4 = flags.toNat then { s with pos := s.pos + 4, phase := 0x13 }
        else { s with pos := s.pos + 4 }.failure .malformed .badPtsPrefix)) ∧
    truncates .pDtsPfx 4 s ∧
    (s.readable 4 → exec .pDtsPfx s = .next
      (if streamValue s.inBuf s.pos 4 = 0b0001 then { s with pos := s.pos + 4, phase := 0x1A }
        else { s with pos := s.pos + 4 }.failure .malformed .badDtsPrefix))

/-- The segments of the two timestamps are recorded without a check (42_header_parser.md R180, R182, R184, R187, R189,
R191). -/
def Obligations.TimestampSegmentsRecorded : Prop :=
  ∀ s : State,
    recordsField .pPtsHi 3 (fun v w => { w with ptsHi := .val v }) 0x14 s ∧
    recordsField .pPtsMid 15 (fun v w => { w with ptsMid := .val v }) 0x16 s ∧
    recordsField .pPtsLo 15 (fun v w => { w with ptsLo := .val v }) 0x18 s ∧
    recordsField .pDtsHi 3 (fun v w => { w with dtsHi := .val v }) 0x1B s ∧
    recordsField .pDtsMid 15 (fun v w => { w with dtsMid := .val v }) 0x1D s ∧
    recordsField .pDtsLo 15 (fun v w => { w with dtsLo := .val v }) 0x1F s

/-- The first two markers of each timestamp are checked as soon as they are read (42_header_parser.md R181, R183, R188,
R190). -/
def Obligations.MarkersChecked : Prop :=
  ∀ s : State,
    checksMarker .pPtsM0 .badPtsMarker 0x15 s ∧ checksMarker .pPtsM1 .badPtsMarker 0x17 s ∧
    checksMarker .pDtsM0 .badDtsMarker 0x1C s ∧ checksMarker .pDtsM1 .badDtsMarker 0x1E s

/-- The third marker of each timestamp is checked, and only then is the timestamp assembled, `hi` in bits [32:30], `mid`
in [29:15], `lo` in [14:0]; the PTS goes on to the DTS for the flags 0b11 only (42_header_parser.md R185, R192). -/
def Obligations.TimestampsAssembled : Prop :=
  ∀ (s : State) (hi : BitVec 3) (mid lo : BitVec 15) (flags : BitVec 2),
    truncates .pPtsM2 1 s ∧
    (s.readable 1 → s.wk.ptsHi = .val hi → s.wk.ptsMid = .val mid → s.wk.ptsLo = .val lo →
      s.wk.ptsDtsFlags = .val flags → exec .pPtsM2 s = .next
        (if streamBit s.inBuf s.pos then
          { s with
            wk := { s.wk with pts := .val (hi ++ mid ++ lo) }
            pos := s.pos + 1
            phase := if flags = 0b11 then 0x19 else 0x20 }
        else { s with pos := s.pos + 1 }.failure .malformed .badPtsMarker)) ∧
    truncates .pDtsM2 1 s ∧
    (s.readable 1 → s.wk.dtsHi = .val hi → s.wk.dtsMid = .val mid → s.wk.dtsLo = .val lo → exec .pDtsM2 s = .next
      (if streamBit s.inBuf s.pos then
        { s with wk := { s.wk with dts := .val (hi ++ mid ++ lo) }, pos := s.pos + 1, phase := 0x20 }
      else { s with pos := s.pos + 1 }.failure .malformed .badDtsMarker))

/-- Timestamp assembly and round trip: the three parts of an assembled timestamp are its bit fields and their weighted
sum; and the five bytes of 30_encoding.md R90 for a prefix `p` and a value `T`, wherever they stand in `IN`, read as the
prefix, three segments each followed by a marker 1 (R87), and the segments assemble to `T` (42_header_parser.md R193). -/
def Obligations.TimestampRoundTrip : Prop :=
  (∀ (hi : BitVec 3) (mid lo : BitVec 15),
    let T := assembleTimestamp hi mid lo;
    T.extractLsb' 30 3 = hi ∧ T.extractLsb' 15 15 = mid ∧ T.extractLsb' 0 15 = lo ∧
    T.toNat = hi.toNat * 2 ^ 30 + mid.toNat * 2 ^ 15 + lo.toNat) ∧
  ∀ (m : Memory) (a : Nat) (p : BitVec 4) (T : BitVec 33),
    Memory.range m a 5 = .ok [p ++ T.extractLsb' 30 3 ++ 1#1, T.extractLsb' 22 8, T.extractLsb' 15 7 ++ 1#1,
      T.extractLsb' 7 8, T.extractLsb' 0 7 ++ 1#1] →
    let i := 8 * a;
    streamValue m i 4 = p.toNat ∧ streamBit m (i + 7) = true ∧ streamBit m (i + 23) = true ∧
    streamBit m (i + 39) = true ∧ streamValue m (i + 4) 3 = (T.extractLsb' 30 3).toNat ∧
    streamValue m (i + 8) 15 = (T.extractLsb' 15 15).toNat ∧ streamValue m (i + 24) 15 = (T.extractLsb' 0 15).toNat ∧
    assembleTimestamp (BitVec.ofNat 3 (streamValue m (i + 4) 3)) (BitVec.ofNat 15 (streamValue m (i + 8) 15))
      (BitVec.ofNat 15 (streamValue m (i + 24) 15)) = T

/-! ## The last phases -/

/-- P_EXTCHK: any of the six extension flags at 1 ends UNSUPPORTED EXT_FLAG_SET; with all six 0 the parse goes on; only
PHASE changes then (43_payload_result.md R220). -/
def Obligations.ExtensionCheck : Prop :=
  ∀ (s : State) (escr esRate dsm aci crc ext : BitVec 1), s.wk.escrFlag = .val escr → s.wk.esRateFlag = .val esRate →
    s.wk.dsmTrickFlag = .val dsm → s.wk.aciFlag = .val aci → s.wk.crcFlag = .val crc → s.wk.extFlag = .val ext →
    exec .pExtchk s = .next
      (if escr = 1 ∨ esRate = 1 ∨ dsm = 1 ∨ aci = 1 ∨ crc = 1 ∨ ext = 1 then s.failure .unsupported .extFlagSet
        else { s with phase := 0x21 })

/-- P_PAYLOAD, padding branch: `packet_length` bytes are counted off, whether or not they were written, and nothing is
sent; with fewer bytes left it ends TRUNCATED SHORT_PADDING, POS unchanged (43_payload_result.md R224). -/
def Obligations.PaddingDiscarded : Prop :=
  ∀ (s : State) (n : BitVec 16), s.wk.packetLength = .val n →
    exec .pPayloadPad s = .next
      (if (8 * s.len - s.pos) / 8 < n.toNat then s.failure .truncated .shortPadding
        else { s with pos := s.pos + 8 * n.toNat, consumed := .val n.toNat, phase := 0x22 })

/-- P_PAYLOAD, forwarding branch: the bytes `IN[POS div 8 .. L-1]`, possibly none, go out unmodified as one event, and
FED, the feed registers, CONSUMED and POS say so; a byte never written is the model fault InUnwritten, and off a byte
boundary `Current()` is the model fault NotByteAligned (43_payload_result.md R225; 20_memory.md R63; 40_bit_reader.md
R125). -/
def Obligations.PayloadForwarded : Prop :=
  ∀ s : State,
    let o := s.pos / 8;
    let k := s.len - o;
    (s.pos % 8 = 0 → Memory.written s.inBuf o k → ∃ bytes, bytes.length = k ∧
      (∀ j (h : j < bytes.length), Memory.read s.inBuf (o + j) = .val bytes[j]) ∧
      exec .pPayloadFwd s = .next
        { s with
          sinkLog := s.sinkLog ++ [bytes]
          status := { s.status with fed := true }
          feedOffset := .val o, feedLen := .val k, consumed := .val k
          pos := 8 * s.len
          phase := 0x22 }) ∧
    (s.pos % 8 = 0 → ¬Memory.written s.inBuf o k → ∃ a, exec .pPayloadFwd s = .fault (.inUnwritten a) ∧ o ≤ a ∧
      a < o + k ∧ Memory.read s.inBuf a = .poison) ∧
    (s.pos % 8 ≠ 0 → exec .pPayloadFwd s = .fault .notByteAligned)

/-- P_COMMIT without a committed optional header: a continuation parse commits none and takes VALID from CONT_VALID; a
start parse of an id without an optional header commits the fixed part; the forbidden flags of a start parse end
MALFORMED FORBIDDEN_PTS_DTS, and what P_PAYLOAD wrote stays (43_payload_result.md R227, R228; 60_exceptions.md R256;
10_state.md R34 to R37, R39, R47). -/
def Obligations.CommitWithoutOptionalHeader : Prop :=
  ∀ s : State,
    (s.cmdStart = false → exec .pCommit s = .next
      { s with
        endPos := s.pos
        status := { s.status with
          result := .ok, cause := .none, failPhase := 0, valid := s.cfg.contValid, busy := false, done := true }
        phase := 0x00 }) ∧
    (∀ sc id pl, s.cmdStart = true → s.wk.startCode = .val sc → s.wk.streamId = .val id →
      s.wk.packetLength = .val pl → id ∈ s.cfg.streamIds.noHdr → exec .pCommit s = .next
        { s with
          endPos := s.pos
          hdr := { Hdr.poison with startCode := .val sc, streamId := .val id, packetLength := .val pl }
          status := { s.status with
            result := .ok, cause := .none, failPhase := 0, valid := true, busy := false, done := true
            hdrPresent := true, optPresent := false, ptsPresent := false, dtsPresent := false
            isAudio := isAudioStream id, isVideo := isVideoStream id
            isPadding := isPaddingStream s.cfg.streamIds id, hasOpt := false }
          phase := 0x00 }) ∧
    (∀ id, s.cmdStart = true → s.wk.streamId = .val id → id ∉ s.cfg.streamIds.noHdr → s.wk.ptsDtsFlags = .val 0b01 →
      exec .pCommit s = .next (s.failure .malformed .forbiddenPtsDts))

/-- P_COMMIT of a start parse with an optional header and flags other than 0b01 commits `Wk` to every HDR_* register, the
timestamps where the flags say so, and the presence and class bits of STATUS (60_exceptions.md R256; 10_state.md R35 to
R39, R47 to R51). -/
def Obligations.CommitWithOptionalHeader : Prop :=
  ∀ (s : State) (sc : BitVec 24) (id : BitVec 8) (pl : BitVec 16) (fx scr : BitVec 2)
    (pri dai cpy ooc : BitVec 1) (f : BitVec 2) (e5 e4 e3 e2 e1 e0 : BitVec 1) (hdl : BitVec 8)
    (hi hi' : Poisonable (BitVec 3)) (mid lo mid' lo' : Poisonable (BitVec 15)) (pts dts : Poisonable (BitVec 33)),
    s.cmdStart = true → id ∉ s.cfg.streamIds.noHdr → f ≠ 0b01 →
    s.wk = { startCode := .val sc, streamId := .val id, packetLength := .val pl, fixed := .val fx,
             scrambling := .val scr, priority := .val pri, dai := .val dai, copyright := .val cpy,
             original := .val ooc, ptsDtsFlags := .val f, escrFlag := .val e5, esRateFlag := .val e4,
             dsmTrickFlag := .val e3, aciFlag := .val e2, crcFlag := .val e1, extFlag := .val e0, hdl := .val hdl,
             ptsHi := hi, ptsMid := mid, ptsLo := lo, pts := pts,
             dtsHi := hi', dtsMid := mid', dtsLo := lo', dts := dts } →
    (f = 0b10 ∨ f = 0b11 → pts.isVal = true) → (f = 0b11 → dts.isVal = true) →
    exec .pCommit s = .next
      { s with
        endPos := s.pos
        hdr := { startCode := .val sc, streamId := .val id, packetLength := .val pl
                 flags1 := .val (fx ++ scr ++ pri ++ dai ++ cpy ++ ooc)
                 flags2 := .val (f ++ e5 ++ e4 ++ e3 ++ e2 ++ e1 ++ e0)
                 hdl := .val hdl
                 pts := if f = 0b10 ∨ f = 0b11 then pts else .poison
                 dts := if f = 0b11 then dts else .poison }
        status := { s.status with
          result := .ok, cause := .none, failPhase := 0, valid := true, busy := false, done := true
          hdrPresent := true, optPresent := true
          ptsPresent := decide (f = 0b10 ∨ f = 0b11), dtsPresent := decide (f = 0b11)
          isAudio := isAudioStream id, isVideo := isVideoStream id
          isPadding := isPaddingStream s.cfg.streamIds id, hasOpt := true }
        phase := 0x00 }

/-- Every register keeps its value in IDLE, and a command is the only thing that leaves it (60_exceptions.md R266). The
turn of PESP that changes nothing is the model's own, notes/assumptions/22.md. -/
def Obligations.IdleIsLeftOnlyByACommand : Prop :=
  (∀ s : State, exec .idle s = .next s) ∧
  ∀ s t : State, s.Inv → s.phase = 0x00 → step s = .next t → t.phase ≠ 0x00 →
    ∃ w rest len, s.turns = .host w :: rest ∧
      (decode s.cfg w = .ok (.parseS len) ∨ decode s.cfg w = .ok (.parseC len)) ∧ len ≤ s.cfg.maxLen

/-- PHASE with a reserved code is the model fault BadPhase, as an instruction and as a step (30_encoding.md R98), and no
step from a state that meets the invariant writes one. -/
def Obligations.ReservedPhasesFault : Prop :=
  (∀ (s : State) (code : BitVec 6), exec (.phaseReserved code) s = .fault (.badPhase code)) ∧
  (∀ s : State, 0x23 ≤ s.phase.toNat → s.pespTurn = true → step s = .fault (.badPhase s.phase)) ∧
  ∀ s t : State, s.Inv → step s = .next t → t.phase.toNat < 0x23

/-! ## Frames -/

/-- Every byte of `IN` that an instruction does not write reads as before: only `InWrite` writes one, its own, and only
reset clears them; and no step but reset changes `IN` while BUSY is 1 (20_memory.md R60, R62, R69). -/
def Obligations.MemoryFrame : Prop :=
  (∀ (i : Instr) (s t : State), exec i s = .next t → ∀ a, (∀ b, i ≠ .inWrite a b) → i ≠ .reset →
    Memory.read t.inBuf a = Memory.read s.inBuf a) ∧
  ∀ s t : State, step s = .next t → s.status.busy = true → s.turns.head? ≠ some resetTurn →
    ∀ a, Memory.read t.inBuf a = Memory.read s.inBuf a

/-- The frame of the phases: a phase leaves the parameters, CMD_START, L, FAULT, the pending turns and the output latch;
only P_COMMIT writes the header registers, only the forwarding branch writes the sink's log, FED and the feed registers,
only the two branches of P_PAYLOAD write CONSUMED, and END_POS changes only at a termination (10_state.md R23, R38, R43
to R46). -/
def Obligations.PhaseFrame : Prop :=
  ∀ (i : Instr) (s t : State), (encode s.cfg i).port = .phase → exec i s = .next t →
    t.cfg = s.cfg ∧ t.cmdStart = s.cmdStart ∧ t.len = s.len ∧ t.faultReg = s.faultReg ∧ t.turns = s.turns ∧
    t.out = s.out ∧ (∀ a, Memory.read t.inBuf a = Memory.read s.inBuf a) ∧
    (i ≠ .pCommit → t.hdr = s.hdr) ∧
    (i ≠ .pPayloadFwd → t.sinkLog = s.sinkLog ∧ t.status.fed = s.status.fed ∧ t.feedOffset = s.feedOffset ∧
      t.feedLen = s.feedLen) ∧
    (i ≠ .pPayloadFwd → i ≠ .pPayloadPad → t.consumed = s.consumed) ∧
    (t.phase ≠ 0x00 → t.endPos = s.endPos ∧ t.status = { s.status with fed := t.status.fed })

/-- The frame of the working header: an instruction leaves each field as it is, but for the phase named for the field, a
command, and RESET, and those two can only set every field to POISON (10_state.md R27). That an accepted command and RESET
do so is in CommandAcceptance and ResetAction. The rows of the PTS_DTS_flags table, which the model gives P_PDF's action
(notes/assumptions/10.md), are left aside. -/
def Obligations.WkWrittenOnlyByItsPhase : Prop :=
  ∀ (i : Instr) (s t : State), (encode s.cfg i).port ≠ .ptsDtsFlags → exec i s = .next t →
    (t.wk = Wk.poison ∧ (i = .reset ∨ ∃ len, i = .parseS len ∨ i = .parseC len)) ∨
    ((i ≠ .pStart → t.wk.startCode = s.wk.startCode) ∧ (i ≠ .pSid → t.wk.streamId = s.wk.streamId) ∧
      (i ≠ .pLen → t.wk.packetLength = s.wk.packetLength) ∧ (i ≠ .pFixed → t.wk.fixed = s.wk.fixed) ∧
      (i ≠ .pScr → t.wk.scrambling = s.wk.scrambling) ∧ (i ≠ .pPri → t.wk.priority = s.wk.priority) ∧
      (i ≠ .pDai → t.wk.dai = s.wk.dai) ∧ (i ≠ .pCpy → t.wk.copyright = s.wk.copyright) ∧
      (i ≠ .pOoc → t.wk.original = s.wk.original) ∧ (i ≠ .pPdf → t.wk.ptsDtsFlags = s.wk.ptsDtsFlags) ∧
      (i ≠ .pEscrf → t.wk.escrFlag = s.wk.escrFlag) ∧ (i ≠ .pEsrf → t.wk.esRateFlag = s.wk.esRateFlag) ∧
      (i ≠ .pDsmf → t.wk.dsmTrickFlag = s.wk.dsmTrickFlag) ∧ (i ≠ .pAcif → t.wk.aciFlag = s.wk.aciFlag) ∧
      (i ≠ .pCrcf → t.wk.crcFlag = s.wk.crcFlag) ∧ (i ≠ .pExtf → t.wk.extFlag = s.wk.extFlag) ∧
      (i ≠ .pHdl → t.wk.hdl = s.wk.hdl) ∧ (i ≠ .pPtsHi → t.wk.ptsHi = s.wk.ptsHi) ∧
      (i ≠ .pPtsMid → t.wk.ptsMid = s.wk.ptsMid) ∧ (i ≠ .pPtsLo → t.wk.ptsLo = s.wk.ptsLo) ∧
      (i ≠ .pPtsM2 → t.wk.pts = s.wk.pts) ∧ (i ≠ .pDtsHi → t.wk.dtsHi = s.wk.dtsHi) ∧
      (i ≠ .pDtsMid → t.wk.dtsMid = s.wk.dtsMid) ∧ (i ≠ .pDtsLo → t.wk.dtsLo = s.wk.dtsLo) ∧
      (i ≠ .pDtsM2 → t.wk.dts = s.wk.dts))

/-! ## The invariant and whole-machine rules -/

/-- The state after reset meets the invariant, under all well-formed parameters (10_state.md section 7). -/
def Obligations.ResetMeetsTheInvariant : Prop :=
  State.reset.Inv ∧ ∀ c : Config, c.wf = true → (State.resetOf c).Inv

/-- Every step that answers a next state keeps the invariant: BUSY exactly when PHASE is not IDLE (10_state.md R31),
STATUS all 0 while DONE is 0 but for BUSY and the internal FED (R32), POS at most 8*L (R23), the canonical memory, and
the other parts of Safety.lean. -/
def Obligations.StepKeepsTheInvariant : Prop :=
  ∀ s t : State, s.Inv → step s = .next t → t.Inv

/-- From a state that meets the invariant, the only model faults are those a host or an unwritten byte causes: ReadPoison
by RegRead, HostProtocol(IN_ADDR) by InWrite, and InUnwritten of an address below L by PESP; BadPhase, NotByteAligned and
ReaderWidth are unreachable (60_exceptions.md R259; 20_memory.md R63). The refusals of words that are no instruction are
the model's, notes/assumptions/3.md and 8.md. -/
def Obligations.StopsOnlyAsNamed : Prop :=
  ∀ s : State, s.Inv →
    (∀ f, step s = .fault f →
      (∃ w rest n r, s.turns = .host w :: rest ∧ decode s.cfg w = .ok (.regRead n) ∧ f = .readPoison r) ∨
      (∃ w rest a b, s.turns = .host w :: rest ∧ decode s.cfg w = .ok (.inWrite a b) ∧ s.cfg.maxLen ≤ a ∧
        f = .hostProtocolInAddr a) ∨
      (∃ a, s.pespTurn = true ∧ f = .inUnwritten a ∧ a < s.len ∧ Memory.read s.inBuf a = .poison)) ∧
    (∀ r, step s = .refused r → ∃ w rest, s.turns = .host w :: rest ∧
      (r = .notHostPort w.port ∨ ∃ e, decode s.cfg w = .error e ∧ r = .undecodable e))

/-- PESP's step is always enabled when the range is written, and a parse left to itself ends within 34 steps of its
accept, IDLE with DONE = 1 (42_header_parser.md R194; 30_encoding.md R97). That no phase waits for the sink is presumed,
notes/assumptions/19.md, as R300 does; that the step is enabled in IDLE too is the model's own, notes/assumptions/22.md. -/
def Obligations.EveryParseEnds : Prop :=
  (∀ s : State, s.Inv → s.pespTurn = true → Memory.written s.inBuf 0 s.len → ∃ t, step s = .next t) ∧
  ∀ s : State, s.Inv → s.phase ≠ 0x00 → s.turns = [] → Memory.written s.inBuf 0 s.len →
    ∃ k t, k ≤ 34 ∧ core.run k s = .next t ∧ t.phase = 0x00 ∧ t.status.busy = false ∧ t.status.done = true

/-- The phase paths of 30_encoding.md R97: a turn of PESP out of a phase goes along an edge of R96 or terminates, and POS
never decreases and never exceeds `8*L` (10_state.md R23, 40_bit_reader.md R126). -/
def Obligations.PhasesFollowThePaths : Prop :=
  ∀ s t : State, s.Inv → s.pespTurn = true → s.phase ≠ 0x00 → step s = .next t →
    s.pos ≤ t.pos ∧ t.pos ≤ 8 * t.len ∧
    (t.phase = 0x00 ∨
      (s.phase.toNat, t.phase.toNat) ∈ ([(0x03, 0x21), (0x11, 0x20), (0x18, 0x20)] : List (Nat × Nat)) ∨
      (t.phase.toNat = s.phase.toNat + 1 ∧ s.phase.toNat ≠ 0x22)) ∧
    (s.phase = 0x03 → t.phase = 0x21 → s.wkHasOpt = false) ∧
    (s.phase = 0x03 → t.phase = 0x04 → s.wkHasOpt = true) ∧
    (s.phase = 0x11 → t.phase = 0x20 → s.wkFields = .noTimestamp) ∧
    (s.phase = 0x18 → t.phase = 0x20 → s.wkFields = .pts) ∧
    (s.phase = 0x22 → t.phase = 0x00)

/-- The phase-step counts of 70_reset_and_hazards.md R302: a parse that stands in P_COMMIT after `n` steps from its accept
has 2, 5, 20, 27 or 34 steps with that one, by its path. -/
def Obligations.StepCountsPerPath : Prop :=
  ∀ (s t : State) (start : Bool) (len n : Nat), s.turns = [] →
    core.run n (accept start len s) = .next t → t.phase = 0x22 →
    n + 1 = (if start = false then 2 else if t.wkHasOpt = false then 5
      else match t.wkFields with
        | .noTimestamp => 20
        | .pts => 27
        | .ptsDts => 34)

/-- Running the step from `Accept(start, len)` until PHASE = IDLE computes the reference function of
42_header_parser.md R196: the same observation and the same event, or the same unwritten byte. -/
def Obligations.RunsComputeParse : Prop :=
  ∀ (s : State) (start : Bool) (len : Nat), s.cfg.wf = true → s.turns = [] →
    match parse s.cfg s.inBuf len start with
    | .ok o => ∃ n t, n ≤ 34 ∧ core.run n (accept start len s) = .next t ∧ t.phase = 0x00 ∧ t.observation o.event = o ∧
        t.sinkLog = s.sinkLog ++ o.event.toList
    | .error a => ∃ n, n ≤ 34 ∧ core.run n (accept start len s) = .fault (.inUnwritten a)

/-- The source's round trip: a packet built with `.FIX`, `.OPT` and `.PTS` or `.PTSDTS` and parsed back yields the
header's fields and timestamps and forwards the payload (30_encoding.md R106, 42_header_parser.md R193; 95_test_vectors.md
E4). -/
def Obligations.EncodedPacketsParseBack : Prop :=
  ∀ (s : State) (sid : Byte) (plen : BitVec 16) (scr : BitVec 2) (pri dai cpy ooc : BitVec 1) (hdl : Byte)
    (Tp Td : BitVec 33) (payload : List Byte), s.cfg.wf = true → s.turns = [] → sid ∉ s.cfg.streamIds.noHdr →
    (let bytes := fixedPartBytes sid plen ++ flagClusterBytes scr pri dai cpy ooc 0b10 0 hdl ++ ptsBytes Tp ++ payload;
      Memory.range s.inBuf 0 bytes.length = .ok bytes →
      ∃ t, core.run 27 (accept true bytes.length s) = .next t ∧ t.status.done = true ∧ t.status.result = .ok ∧
        t.status.valid = true ∧ t.sinkLog = s.sinkLog ++ [payload] ∧
        t.hdr = { startCode := .val 0x000001, streamId := .val sid, packetLength := .val plen
                  flags1 := .val (0b10#2 ++ scr ++ pri ++ dai ++ cpy ++ ooc), flags2 := .val 0x80
                  hdl := .val hdl, pts := .val Tp, dts := .poison }) ∧
    (let bytes := fixedPartBytes sid plen ++ flagClusterBytes scr pri dai cpy ooc 0b11 0 hdl ++ ptsDtsBytes Tp Td ++
        payload;
      Memory.range s.inBuf 0 bytes.length = .ok bytes →
      ∃ t, core.run 34 (accept true bytes.length s) = .next t ∧ t.status.done = true ∧ t.status.result = .ok ∧
        t.status.valid = true ∧ t.sinkLog = s.sinkLog ++ [payload] ∧
        t.hdr = { startCode := .val 0x000001, streamId := .val sid, packetLength := .val plen
                  flags1 := .val (0b10#2 ++ scr ++ pri ++ dai ++ cpy ++ ooc), flags2 := .val 0xC0
                  hdl := .val hdl, pts := .val Tp, dts := .val Td })

/-- A continuation parse of written bytes takes two steps and ends OK, whatever its bytes: one event with the whole
range, no header, VALID = CONT_VALID (42_header_parser.md R161; 60_exceptions.md R254). -/
def Obligations.ContinuationEndsOk : Prop :=
  ∀ (s : State) (len : Nat), s.turns = [] → Memory.written s.inBuf 0 len →
    ∃ bytes, Memory.range s.inBuf 0 len = .ok bytes ∧ core.run 2 (accept false len s) = .next
      { s with
        phase := 0x00, pos := 8 * len, cmdStart := false, len := len, wk := Wk.poison, hdr := Hdr.poison
        status := { Status.zero with done := true, result := .ok, valid := s.cfg.contValid, fed := true }
        endPos := 8 * len, consumed := .val len, feedOffset := .val 0, feedLen := .val len
        sinkLog := s.sinkLog ++ [bytes] }

/-- What a termination records: END_POS, the result kind with a cause of its own, FAIL_PHASE, VALID, BUSY and DONE; a
failure leaves no header; and the registers that P_PAYLOAD wrote keep their values (60_exceptions.md R253, R256;
10_state.md R34, R35, R40, R43; 43_payload_result.md R230). -/
def Obligations.TerminationRecords : Prop :=
  ∀ s t : State, s.Inv → s.pespTurn = true → s.phase ≠ 0x00 → step s = .next t → t.phase = 0x00 →
    t.endPos = t.pos ∧ t.status.busy = false ∧ t.status.done = true ∧
    t.status.cause.resultOf = t.status.result ∧
    t.status.failPhase = (if t.status.result = .ok then 0 else s.phase) ∧
    t.status.valid = (if t.status.result = .ok then if s.cmdStart then true else s.cfg.contValid else false) ∧
    t.status.hdrPresent = (s.cmdStart && decide (t.status.result = .ok)) ∧
    (t.status.hdrPresent = false → t.hdr = Hdr.poison ∧ t.status.optPresent = false ∧ t.status.ptsPresent = false ∧
      t.status.dtsPresent = false ∧ t.status.isAudio = false ∧ t.status.isVideo = false ∧
      t.status.isPadding = false ∧ t.status.hasOpt = false) ∧
    t.status.fed = s.status.fed ∧ t.feedOffset = s.feedOffset ∧ t.feedLen = s.feedLen ∧ t.consumed = s.consumed

/-- Which phase can fail with which cause, and where END_POS then is: just past the bad field for MALFORMED, at the start
of the unreadable field for TRUNCATED, at the header's end for the extension flags (60_exceptions.md R250 to R253;
30_encoding.md R101; the END_POS values of 42_header_parser.md and 43_payload_result.md). -/
def Obligations.FailuresAndTheirPositions : Prop :=
  ∀ s t : State, s.Inv → s.pespTurn = true → s.phase ≠ 0x00 → step s = .next t → t.phase = 0x00 →
    (t.status.result ≠ .ok → s.cmdStart = true) ∧
    (t.status.result = .malformed →
      (s.phase.toNat, t.status.cause, t.endPos) ∈ checkRows ∨
      (s.phase = 0x22 ∧ t.status.cause = .forbiddenPtsDts ∧ s.cfg.forbiddenPolicy = .lateVerdict)) ∧
    (t.status.result = .unsupported → s.phase = 0x20 ∧ t.status.cause = .extFlagSet ∧
      t.endPos = (match s.wkFields with | .noTimestamp => 72 | .pts => 112 | .ptsDts => 152)) ∧
    (t.status.result = .truncated → t.status.cause = .shortField ∨ t.status.cause = .shortPadding) ∧
    (t.status.cause = .shortField → (s.phase.toNat, t.endPos) ∈ offsetRows) ∧
    (t.status.cause = .shortPadding → s.phase = 0x21 ∧ t.endPos = 48)

/-- Where each field of the header stands: in a running start parse POS is the offset of 30_encoding.md R82 for the phase,
the optional rows run only for an id with an optional header and flags that announce them (R84), and P_PAYLOAD starts at
the header length of R92, a whole number of bytes (R95). -/
def Obligations.FieldsStandAtTheirOffsets : Prop :=
  ∀ s : State, s.Inv →
    (s.phase = 0x21 → s.pos % 8 = 0) ∧
    (s.cmdStart = false → s.phase = 0x21 → s.pos = 0) ∧
    (s.cmdStart = true →
      (∀ r ∈ offsetRows, s.phase.toNat = r.1 → s.pos = r.2) ∧
      (0x04 ≤ s.phase.toNat → s.phase.toNat ≤ 0x20 → ∃ id, s.wk.streamId = .val id ∧ id ∉ s.cfg.streamIds.noHdr) ∧
      (0x12 ≤ s.phase.toNat → s.phase.toNat ≤ 0x1F → s.wk.ptsDtsFlags = .val 0b10 ∨ s.wk.ptsDtsFlags = .val 0b11) ∧
      (0x19 ≤ s.phase.toNat → s.phase.toNat ≤ 0x1F → s.wk.ptsDtsFlags = .val 0b11) ∧
      (s.phase = 0x21 → ∃ id, s.wk.streamId = .val id ∧
        (id ∈ s.cfg.streamIds.noHdr → s.pos = 48) ∧
        (id ∉ s.cfg.streamIds.noHdr → ∃ f, s.wk.ptsDtsFlags = .val f ∧
          s.pos = (if f = 0b10 then 112 else if f = 0b11 then 152 else 72))))

/-- Every register of width PW or LW holds a value that fits its width, so that none of them wraps; `bitlength(x)` is the
least `k` with `x < 2^k` (10_state.md R26). -/
def Obligations.RegistersFitTheirWidths : Prop :=
  (∀ x k : Nat, bitlength x ≤ k ↔ x < 2 ^ k) ∧
  ∀ s : State, s.Inv →
    let pw := bitlength (8 * s.cfg.maxLen);
    let lw := bitlength s.cfg.maxLen;
    s.pos < 2 ^ pw ∧ s.endPos < 2 ^ pw ∧ s.len < 2 ^ lw ∧ (∀ x, s.consumed = .val x → x < 2 ^ lw) ∧
    (∀ x, s.feedOffset = .val x → x < 2 ^ lw) ∧ (∀ x, s.feedLen = .val x → x < 2 ^ lw)

/-- FeedData: a step other than reset leaves the sink's log or appends one event; it appends only in P_PAYLOAD of a parse
that is not a padding stream's and has sent none yet, and the event is the rest of the range; FED, once set, stays until
the next accept or reset, so that there is at most one event per command (43_payload_result.md R226; 10_state.md R38). -/
def Obligations.AtMostOneEventPerCommand : Prop :=
  ∀ s t : State, s.Inv → step s = .next t → s.turns.head? ≠ some resetTurn →
    (t.sinkLog = s.sinkLog ∨
      (s.pespTurn = true ∧ s.phase = 0x21 ∧ s.status.fed = false ∧ t.status.fed = true ∧
        (s.cmdStart = true → ∀ id, s.wk.streamId = .val id → id ≠ s.cfg.streamIds.paddingStream) ∧
        ∃ bytes, Memory.range s.inBuf (s.pos / 8) (s.len - s.pos / 8) = .ok bytes ∧
          t.sinkLog = s.sinkLog ++ [bytes])) ∧
    (s.status.fed = true → t.status.fed = true ∨ (s.status.busy = false ∧ t.status.busy = true))

/-- Result registers hold: once DONE is 1, a step that is not reset and accepts no command leaves STATUS, END_POS,
CONSUMED, the feed registers and the header registers (60_exceptions.md R260; 70_reset_and_hazards.md R296). -/
def Obligations.ResultsHoldUntilTheNextAccept : Prop :=
  ∀ s t : State, s.Inv → s.status.done = true → step s = .next t → s.turns.head? ≠ some resetTurn →
    (t.status.done = false ∧ t.status.busy = true) ∨
    (t.status = s.status ∧ t.endPos = s.endPos ∧ t.consumed = s.consumed ∧ t.feedOffset = s.feedOffset ∧
      t.feedLen = s.feedLen ∧ t.hdr = s.hdr ∧ t.cmdStart = s.cmdStart ∧ t.len = s.len)

/-- The launch premise can be met: reset followed by the writes of a range gives `Clean(len)`, with the bytes in place
(70_reset_and_hazards.md R293, R294). How the host's actions are listed is the model's, notes/assumptions/6.md. -/
def Obligations.ResetAndWritesGiveClean : Prop :=
  ∀ (s : State) (bytes : List Byte), bytes.length ≤ s.cfg.maxLen →
    s.turns = resetTurn :: inBytesTurns s.cfg 0 bytes →
    ∃ t, core.run (bytes.length + 1) s = .next t ∧ t.clean bytes.length ∧
      Memory.range t.inBuf 0 bytes.length = .ok bytes

/-- The header-data-length is never used: two ranges of a start parse that differ only in byte 8, where that byte is the
header-data-length, parse to the same state but for the byte and the registers that record it
(43_payload_result.md R223). -/
def Obligations.HeaderDataLengthIsNotUsed : Prop :=
  ∀ (s t : State) (len : Nat) (id b : Byte), s.turns = [] → Memory.read s.inBuf 3 = .val id →
    id ∉ s.cfg.streamIds.noHdr → core.run 34 (accept true len s) = .next t →
    ∃ hdl hdl', core.run 34 (accept true len { s with inBuf := Memory.write s.inBuf 8 b }) = .next
      { t with
        inBuf := Memory.write s.inBuf 8 b
        wk := { t.wk with hdl := hdl }
        hdr := { t.hdr with hdl := hdl' } }

/-- Instances share nothing: a step of one leaves every other, and steps of two instances commute
(60_exceptions.md R268). The system as a list of states is the model's own, notes/assumptions/23.md. -/
def Obligations.InstancesShareNothing : Prop :=
  (∀ (sys sys' : System) (k : Nat), sys.stepInstance k = some sys' →
    sys'.length = sys.length ∧ (∀ j, j ≠ k → sys'[j]? = sys[j]?) ∧
    ∃ s t, sys[k]? = some s ∧ step s = .next t ∧ sys'[k]? = some t) ∧
  ∀ (sys : System) (j k : Nat), j ≠ k →
    (sys.stepInstance j).bind (fun u => u.stepInstance k) = (sys.stepInstance k).bind (fun u => u.stepInstance j)
end

