-- ==== Sys2Proof/Laws/PerInstr.lean ====
section
/-! SUPPORT. Laws/PerInstr.lean: laws of each instruction as syntax, one lemma per constructor: on which port its word
stands and how many bytes the word has. -/

namespace Sys2Proof.Laws.Shape

/-- The port an instruction's word stands on. -/
def portOf : Instr → Port
  | .parseS _ | .parseC _ => .command
  | .inWrite _ _ => .inWrite
  | .regRead _ => .regRead
  | .classify _ => .classify
  | .reset => .reset
  | .readBit | .readBits _ | .bytesLeft | .current => .reader
  | .isAudioStream _ => .isAudio
  | .isVideoStream _ => .isVideo
  | .isPaddingStream _ => .isPadding
  | .hasOptionalHeader _ => .hasOptional
  | .sidPsm | .sidPadding | .sidPriv2 | .sidEcm | .sidEmm | .sidDsmcc | .sidH2221e | .sidPsd
  | .sidAudio _ | .sidVideo _ | .sidOther _ => .streamId
  | .pdfNone _ | .pdfForbidden _ | .pdfPts _ | .pdfPtsDts _ => .ptsDtsFlags
  | .idle
  | .pStart | .pSid | .pLen
  | .pFixed | .pScr | .pPri | .pDai | .pCpy | .pOoc
  | .pPdf | .pEscrf | .pEsrf | .pDsmf | .pAcif | .pCrcf | .pExtf | .pHdl
  | .pPtsPfx | .pPtsHi | .pPtsM0 | .pPtsMid | .pPtsM1 | .pPtsLo | .pPtsM2
  | .pDtsPfx | .pDtsHi | .pDtsM0 | .pDtsMid | .pDtsM1 | .pDtsLo | .pDtsM2
  | .pExtchk | .pPayloadPad | .pPayloadFwd | .pCommit
  | .phaseReserved _ => .phase

/-- How many bytes an instruction's word has: its selector byte and its operand's bytes. -/
def sizeOf (c : Config) : Instr → Nat
  | .parseS n | .parseC n | .inWrite n _ => operandFieldBytes c.lw n + 1
  | .reset => 0
  | .readBits n => operandFieldBytes (bitlength c.readWidth) n + 1
  | _ => 1

theorem length_leBytes (k n : Nat) : (leBytes k n).length = k := by
  induction k generalizing n with
  | zero => rfl
  | succ k ih => simp [leBytes, ih]

/-- The word of an instruction stands on the instruction's port and has the instruction's size. -/
def Statement (i : Instr) : Prop :=
  ∀ c : Config, (encode c i).port = portOf i ∧ (encode c i).bytes.length = sizeOf c i

theorem parseS (len : Nat) : Statement (.parseS len) := fun _ => ⟨rfl, by simp [encode, commandWord, sizeOf, operandField, length_leBytes]⟩
theorem parseC (len : Nat) : Statement (.parseC len) := fun _ => ⟨rfl, by simp [encode, commandWord, sizeOf, operandField, length_leBytes]⟩
theorem inWrite (a : Nat) (b : Byte) : Statement (.inWrite a b) := fun _ => ⟨rfl, by simp [encode, sizeOf, operandField, length_leBytes]⟩
theorem regRead (n : BitVec 8) : Statement (.regRead n) := fun _ => ⟨rfl, rfl⟩
theorem classify (id : Byte) : Statement (.classify id) := fun _ => ⟨rfl, rfl⟩
theorem reset : Statement .reset := fun _ => ⟨rfl, rfl⟩
theorem readBit : Statement .readBit := fun _ => ⟨rfl, rfl⟩
theorem readBits (n : Nat) : Statement (.readBits n) := fun _ => ⟨rfl, by simp [encode, sizeOf, operandField, length_leBytes]⟩
theorem bytesLeft : Statement .bytesLeft := fun _ => ⟨rfl, rfl⟩
theorem current : Statement .current := fun _ => ⟨rfl, rfl⟩
theorem isAudioStream (id : Byte) : Statement (.isAudioStream id) := fun _ => ⟨rfl, rfl⟩
theorem isVideoStream (id : Byte) : Statement (.isVideoStream id) := fun _ => ⟨rfl, rfl⟩
theorem isPaddingStream (id : Byte) : Statement (.isPaddingStream id) := fun _ => ⟨rfl, rfl⟩
theorem hasOptionalHeader (id : Byte) : Statement (.hasOptionalHeader id) := fun _ => ⟨rfl, rfl⟩
theorem sidPsm : Statement .sidPsm := fun _ => ⟨rfl, rfl⟩
theorem sidPadding : Statement .sidPadding := fun _ => ⟨rfl, rfl⟩
theorem sidPriv2 : Statement .sidPriv2 := fun _ => ⟨rfl, rfl⟩
theorem sidEcm : Statement .sidEcm := fun _ => ⟨rfl, rfl⟩
theorem sidEmm : Statement .sidEmm := fun _ => ⟨rfl, rfl⟩
theorem sidDsmcc : Statement .sidDsmcc := fun _ => ⟨rfl, rfl⟩
theorem sidH2221e : Statement .sidH2221e := fun _ => ⟨rfl, rfl⟩
theorem sidPsd : Statement .sidPsd := fun _ => ⟨rfl, rfl⟩
theorem sidAudio (low : BitVec 5) : Statement (.sidAudio low) := fun _ => ⟨rfl, rfl⟩
theorem sidVideo (low : BitVec 4) : Statement (.sidVideo low) := fun _ => ⟨rfl, rfl⟩
theorem sidOther (id : Byte) : Statement (.sidOther id) := fun _ => ⟨rfl, rfl⟩
theorem pdfNone (ext : BitVec 6) : Statement (.pdfNone ext) := fun _ => ⟨rfl, rfl⟩
theorem pdfForbidden (ext : BitVec 6) : Statement (.pdfForbidden ext) := fun _ => ⟨rfl, rfl⟩
theorem pdfPts (ext : BitVec 6) : Statement (.pdfPts ext) := fun _ => ⟨rfl, rfl⟩
theorem pdfPtsDts (ext : BitVec 6) : Statement (.pdfPtsDts ext) := fun _ => ⟨rfl, rfl⟩
theorem idle : Statement .idle := fun _ => ⟨rfl, rfl⟩
theorem pStart : Statement .pStart := fun _ => ⟨rfl, rfl⟩
theorem pSid : Statement .pSid := fun _ => ⟨rfl, rfl⟩
theorem pLen : Statement .pLen := fun _ => ⟨rfl, rfl⟩
theorem pFixed : Statement .pFixed := fun _ => ⟨rfl, rfl⟩
theorem pScr : Statement .pScr := fun _ => ⟨rfl, rfl⟩
theorem pPri : Statement .pPri := fun _ => ⟨rfl, rfl⟩
theorem pDai : Statement .pDai := fun _ => ⟨rfl, rfl⟩
theorem pCpy : Statement .pCpy := fun _ => ⟨rfl, rfl⟩
theorem pOoc : Statement .pOoc := fun _ => ⟨rfl, rfl⟩
theorem pPdf : Statement .pPdf := fun _ => ⟨rfl, rfl⟩
theorem pEscrf : Statement .pEscrf := fun _ => ⟨rfl, rfl⟩
theorem pEsrf : Statement .pEsrf := fun _ => ⟨rfl, rfl⟩
theorem pDsmf : Statement .pDsmf := fun _ => ⟨rfl, rfl⟩
theorem pAcif : Statement .pAcif := fun _ => ⟨rfl, rfl⟩
theorem pCrcf : Statement .pCrcf := fun _ => ⟨rfl, rfl⟩
theorem pExtf : Statement .pExtf := fun _ => ⟨rfl, rfl⟩
theorem pHdl : Statement .pHdl := fun _ => ⟨rfl, rfl⟩
theorem pPtsPfx : Statement .pPtsPfx := fun _ => ⟨rfl, rfl⟩
theorem pPtsHi : Statement .pPtsHi := fun _ => ⟨rfl, rfl⟩
theorem pPtsM0 : Statement .pPtsM0 := fun _ => ⟨rfl, rfl⟩
theorem pPtsMid : Statement .pPtsMid := fun _ => ⟨rfl, rfl⟩
theorem pPtsM1 : Statement .pPtsM1 := fun _ => ⟨rfl, rfl⟩
theorem pPtsLo : Statement .pPtsLo := fun _ => ⟨rfl, rfl⟩
theorem pPtsM2 : Statement .pPtsM2 := fun _ => ⟨rfl, rfl⟩
theorem pDtsPfx : Statement .pDtsPfx := fun _ => ⟨rfl, rfl⟩
theorem pDtsHi : Statement .pDtsHi := fun _ => ⟨rfl, rfl⟩
theorem pDtsM0 : Statement .pDtsM0 := fun _ => ⟨rfl, rfl⟩
theorem pDtsMid : Statement .pDtsMid := fun _ => ⟨rfl, rfl⟩
theorem pDtsM1 : Statement .pDtsM1 := fun _ => ⟨rfl, rfl⟩
theorem pDtsLo : Statement .pDtsLo := fun _ => ⟨rfl, rfl⟩
theorem pDtsM2 : Statement .pDtsM2 := fun _ => ⟨rfl, rfl⟩
theorem pExtchk : Statement .pExtchk := fun _ => ⟨rfl, rfl⟩
theorem pPayloadPad : Statement .pPayloadPad := fun _ => ⟨rfl, rfl⟩
theorem pPayloadFwd : Statement .pPayloadFwd := fun _ => ⟨rfl, rfl⟩
theorem pCommit : Statement .pCommit := fun _ => ⟨rfl, rfl⟩
theorem phaseReserved (code : BitVec 6) : Statement (.phaseReserved code) := fun _ => ⟨rfl, rfl⟩

end Sys2Proof.Laws.Shape
end

