-- ==== Sys2Proof/Laws/Encoding.lean ====
section
/-! SUPPORT. Laws/Encoding.lean: operands survive their bytes. -/

namespace Sys2Proof

theorem leNat_leBytes (k n : Nat) : leNat (leBytes k n) = n % 256 ^ k := by
  induction k generalizing n with
  | zero => simp [leBytes, leNat, Nat.mod_one]
  | succ k ih =>
    simp only [leBytes, leNat, ih, BitVec.toNat_ofNat]
    rw [show (2 : Nat) ^ 8 = 256 by norm_num, pow_succ, Nat.mul_comm (256 ^ k) 256, Nat.mod_mul]

theorem leBytes_leNat (bs : List Byte) : leBytes bs.length (leNat bs) = bs := by
  induction bs with
  | nil => rfl
  | cons b bs ih =>
    have h1 : (b.toNat + 256 * leNat bs) / 256 = leNat bs := by
      have := b.isLt
      omega
    have h2 : BitVec.ofNat 8 (b.toNat + 256 * leNat bs) = b := by
      apply BitVec.eq_of_toNat_eq
      have := b.isLt
      simp only [BitVec.toNat_ofNat]
      omega
    simp only [List.length_cons, leBytes, leNat, h1, h2, ih]

theorem two_pow_le_operandBytes (bits : Nat) : 2 ^ bits ≤ 256 ^ operandBytes bits := by
  rw [show (256 : Nat) = 2 ^ 8 by norm_num, ← pow_mul]
  apply Nat.pow_le_pow_right (by norm_num)
  unfold operandBytes
  omega

/-- The operand decoder reads back every operand of the width. -/
theorem decodeOperand_leBytes {bits n : Nat} (h : n < 2 ^ bits) :
    decodeOperand bits (leBytes (operandBytes bits) n) = .ok n := by
  have hn : leNat (leBytes (operandBytes bits) n) = n := by
    rw [leNat_leBytes]
    exact Nat.mod_eq_of_lt (lt_of_lt_of_le h (two_pow_le_operandBytes bits))
  simp only [decodeOperand, Laws.Shape.length_leBytes, ne_eq, not_true, if_false, hn]
  rw [if_neg (by omega)]

/-- Operand bytes that decode are those of the operand, which fits its width. -/
theorem decodeOperand_ok {bits n : Nat} {bs : List Byte} (h : decodeOperand bits bs = .ok n) :
    bs = leBytes (operandBytes bits) n ∧ n < 2 ^ bits := by
  simp only [decodeOperand] at h
  split at h
  · cases h
  · rename_i hl
    split at h
    · cases h
    · rename_i hw
      simp only [Except.ok.injEq] at h
      subst h
      have hl' : bs.length = operandBytes bits := not_not.1 hl
      exact ⟨by rw [← hl', leBytes_leNat], by omega⟩

/-! ## Operands of any size -/

theorem lt_two_pow_bitlength (n : Nat) : n < 2 ^ bitlength n := by
  unfold bitlength
  split
  · omega
  · exact Nat.lt_log2_self

theorem bitlength_le_of_lt {n k : Nat} (h : n < 2 ^ k) : bitlength n ≤ k := by
  unfold bitlength
  split
  · omega
  · rename_i hn
    exact (Nat.log2_lt hn).2 h

/-- The operand field drops no bit of a number. -/
theorem leNat_operandField (bits n : Nat) : leNat (operandField bits n) = n := by
  rw [operandField, leNat_leBytes]
  refine Nat.mod_eq_of_lt (lt_of_lt_of_le (lt_two_pow_bitlength n) ?_)
  exact (two_pow_le_operandBytes _).trans (Nat.pow_le_pow_right (by norm_num) (le_max_right _ _))

/-- A number that fits the operand takes exactly the operand's bytes. -/
theorem operandField_of_lt {bits n : Nat} (h : n < 2 ^ bits) :
    operandField bits n = leBytes (operandBytes bits) n := by
  have hb : operandBytes (bitlength n) ≤ operandBytes bits :=
    Nat.div_le_div_right (Nat.add_le_add_right (bitlength_le_of_lt h) 7)
  rw [operandField, operandFieldBytes, max_eq_left hb]

/-- The operand decoder reads back every operand of the width from its field, -/
theorem decodeOperand_operandField {bits n : Nat} (h : n < 2 ^ bits) :
    decodeOperand bits (operandField bits n) = .ok n := by
  rw [operandField_of_lt h, decodeOperand_leBytes h]

/-- and no operand from the field of a number beyond the width. -/
theorem decodeOperand_operandField_of_ge {bits n m : Nat} (h : 2 ^ bits ≤ n) :
    decodeOperand bits (operandField bits n) ≠ .ok m := by
  intro hd
  obtain ⟨hb, hm⟩ := decodeOperand_ok hd
  have hn := leNat_operandField bits n
  rw [hb, leNat_leBytes, Nat.mod_eq_of_lt (lt_of_lt_of_le hm (two_pow_le_operandBytes bits))] at hn
  omega

/-- The address decoder reads back every number. -/
theorem decodeAddress_operandField (c : Config) (a : Nat) : decodeAddress c (operandField c.lw a) = .ok a := by
  rw [decodeAddress, leNat_operandField, operandField, Laws.Shape.length_leBytes, if_pos rfl]

/-- Address bytes that decode are those of the address. -/
theorem decodeAddress_ok {c : Config} {a : Nat} {bs : List Byte} (h : decodeAddress c bs = .ok a) :
    bs = operandField c.lw a := by
  simp only [decodeAddress] at h
  split at h
  · rename_i hl
    simp only [Except.ok.injEq] at h
    subst h
    rw [operandField, ← hl, leBytes_leNat]
  · cases h

/-- Every write a host can name is a word of the write port, whatever its address (20_memory.md R61, 60_exceptions.md
R258). -/
theorem decode_encode_inWrite (c : Config) (a : Nat) (b : Byte) :
    decode c (encode c (.inWrite a b)) = .ok (.inWrite a b) := by
  simp only [encode, decode, decodeInWrite, decodeAddress_operandField]

/-- A command whose `len` does not fit LW bits has no word (30_encoding.md R80): it is never another command's. -/
theorem decode_encode_command_of_ge {c : Config} {len : Nat} (h : 2 ^ c.lw ≤ len) (start : Byte) (i : Instr) :
    decode c (commandWord c start len) ≠ .ok i := by
  simp only [commandWord, decode, decodeCommand]
  cases hd : decodeOperand c.lw (operandField c.lw len) with
  | error e => simp
  | ok m => exact absurd hd (decodeOperand_operandField_of_ge h)

end Sys2Proof
end

