-- ==== Sys2Proof/Laws/Memory.lean ====
section
/-! SUPPORT. Laws/Memory.lean: what a write of the input buffer does to every read, that it keeps the canonical form, and
what the reads of a range and of a bit field return. -/

namespace Sys2Proof.Machine

theorem Memory.read_write_same (m : Memory) (a : Nat) (b : Byte) :
    Memory.read (Memory.write m a b) a = .val b := by
  induction m with
  | nil => simp [Memory.write, Memory.read]
  | cons x m ih =>
    obtain ⟨k, c⟩ := x
    simp only [Memory.write]
    split
    · simp [Memory.read]
    · split
      · simp [Memory.read]
      · rename_i h1 h2
        simp [Memory.read, Ne.symm h2, ih]

theorem Memory.read_write_other (m : Memory) {a a' : Nat} (b : Byte) (h : a' ≠ a) :
    Memory.read (Memory.write m a b) a' = Memory.read m a' := by
  induction m with
  | nil => simp [Memory.write, Memory.read, h.symm]
  | cons x m ih =>
    obtain ⟨k, c⟩ := x
    simp only [Memory.write]
    split
    · simp [Memory.read, h.symm]
    · split
      · rename_i h1 h2
        subst h2
        simp [Memory.read, h.symm]
      · simp only [Memory.read, ih]

/-- Every address listed after a write was listed before it or is the written one. -/
theorem Memory.mem_write {m : Memory} {a : Nat} {b : Byte} {x : Host.Cell} (h : x ∈ Memory.write m a b) :
    x = (a, b) ∨ x ∈ m := by
  induction m with
  | nil => simpa [Memory.write] using h
  | cons y m ih =>
    obtain ⟨k, c⟩ := y
    simp only [Memory.write] at h
    split at h
    · simpa using h
    · split at h
      · simp only [List.mem_cons] at h ⊢
        tauto
      · simp only [List.mem_cons] at h ⊢
        rcases h with h | h
        · exact .inr (.inl h)
        · exact (ih h).imp id .inr

theorem Memory.write_wf {m : Memory} (h : Memory.wf m) (a : Nat) (b : Byte) : Memory.wf (Memory.write m a b) := by
  induction m with
  | nil => simp [Memory.write, Memory.wf]
  | cons y m ih =>
    obtain ⟨k, c⟩ := y
    simp only [Memory.wf, List.pairwise_cons] at h ih ⊢
    simp only [Memory.write]
    split
    · rename_i hlt
      simp only [List.pairwise_cons, List.mem_cons, forall_eq_or_imp]
      exact ⟨⟨hlt, fun x hx => lt_trans hlt (h.1 x hx)⟩, h.1, h.2⟩
    · split
      · rename_i _ heq
        subst heq
        simp only [List.pairwise_cons]
        exact ⟨h.1, h.2⟩
      · rename_i h1 h2
        simp only [List.pairwise_cons]
        refine ⟨fun x hx => ?_, ih h.2⟩
        rcases Memory.mem_write hx with rfl | hx
        · show k < a
          omega
        · exact h.1 x hx

/-- A range that could be read: its length, and each of its bytes. -/
theorem Memory.range_ok {m : Memory} {o k : Nat} {bs : List Byte} (h : Memory.range m o k = .ok bs) :
    bs.length = k ∧ ∀ j (hj : j < bs.length), Memory.read m (o + j) = .val bs[j] := by
  induction k generalizing o bs with
  | zero =>
    simp only [Memory.range, Except.ok.injEq] at h
    subst h
    simp
  | succ k ih =>
    simp only [Memory.range] at h
    split at h
    · cases h
    · rename_i b hb
      split at h
      · cases h
      · rename_i tl htl
        cases h
        obtain ⟨h1, h2⟩ := ih htl
        refine ⟨by simp [h1], fun j hj => ?_⟩
        cases j with
        | zero => simpa using hb
        | succ j =>
          have := h2 j (by simpa using hj)
          simpa [Nat.add_assoc, Nat.add_comm 1 j] using this

/-- A range in which every byte is written can be read. -/
theorem Memory.range_of_written {m : Memory} {o k : Nat} (h : Memory.written m o k) :
    ∃ bs, Memory.range m o k = .ok bs := by
  induction k generalizing o with
  | zero => exact ⟨[], rfl⟩
  | succ k ih =>
    obtain ⟨b, hb⟩ := h o le_rfl (by omega)
    obtain ⟨bs, hbs⟩ := ih (o := o + 1) (fun i h1 h2 => h i (by omega) (by omega))
    exact ⟨b :: bs, by simp [Memory.range, hb, hbs]⟩

/-- A range that cannot be read names a POISON byte of it. -/
theorem Memory.range_error {m : Memory} {o k a : Nat} (h : Memory.range m o k = .error a) :
    o ≤ a ∧ a < o + k ∧ Memory.read m a = .poison := by
  induction k generalizing o with
  | zero => simp [Memory.range] at h
  | succ k ih =>
    simp only [Memory.range] at h
    split at h
    · rename_i hp
      simp only [Except.error.injEq] at h
      subst h
      exact ⟨le_rfl, by omega, hp⟩
    · split at h
      · rename_i _ _ _ e he
        simp only [Except.error.injEq] at h
        subst h
        have := ih he
        exact ⟨by omega, by omega, this.2.2⟩
      · cases h

/-- One more bit at the front of a field is worth `2^n`. -/
theorem streamValue_cons (m : Memory) (i n : Nat) :
    streamValue m i (n + 1) = 2 ^ n * (streamBit m i).toNat + streamValue m (i + 1) n := by
  induction n with
  | zero => simp [streamValue]
  | succ n ih =>
    rw [streamValue, ih, streamValue, Nat.add_right_comm i 1 n, pow_succ]
    ring_nf

theorem streamValue_lt (m : Memory) (i n : Nat) : streamValue m i n < 2 ^ n := by
  induction n with
  | zero => simp [streamValue]
  | succ n ih =>
    have : (streamBit m (i + n)).toNat ≤ 1 := Bool.toNat_le _
    rw [streamValue, pow_succ]
    omega

/-- The loop of `ReadBits` computes the number of the stream bits it reads (R12, R122). -/
theorem Memory.bits_ok {m : Memory} {n i v x : Nat} (h : Memory.bits m n i v = .ok x) :
    x = 2 ^ n * v + streamValue m i n := by
  induction n generalizing i v with
  | zero =>
    simp only [Memory.bits, Except.ok.injEq] at h
    simp [streamValue, h]
  | succ n ih =>
    simp only [Memory.bits] at h
    split at h
    · cases h
    · rename_i b hb
      rw [ih h, streamValue_cons]
      have : streamBit m i = streamBitOf b i := by simp [streamBit, hb]
      rw [this, pow_succ]
      ring

/-- A field whose bytes are all written can be read. -/
theorem Memory.bits_of_written {m : Memory} {n i v : Nat}
    (h : ∀ j, i ≤ j → j < i + n → ∃ b, Memory.read m (j / 8) = .val b) :
    Memory.bits m n i v = .ok (2 ^ n * v + streamValue m i n) := by
  induction n generalizing i v with
  | zero => simp [Memory.bits, streamValue]
  | succ n ih =>
    obtain ⟨b, hb⟩ := h i le_rfl (by omega)
    simp only [Memory.bits, hb]
    rw [ih (fun j h1 h2 => h j (by omega) (by omega)), streamValue_cons]
    have : streamBit m i = streamBitOf b i := by simp [streamBit, hb]
    rw [this, pow_succ]
    congr 1
    ring

/-- A field that could be read has every byte it touches written. -/
theorem Memory.written_of_bits {m : Memory} {n i v x : Nat} (h : Memory.bits m n i v = .ok x) :
    ∀ j, i ≤ j → j < i + n → ∃ b, Memory.read m (j / 8) = .val b := by
  induction n generalizing i v with
  | zero => omega
  | succ n ih =>
    simp only [Memory.bits] at h
    split at h
    · cases h
    · rename_i b hb
      intro j h1 h2
      rcases Nat.eq_or_lt_of_le h1 with rfl | h1
      · exact ⟨b, hb⟩
      · exact ih h j h1 (by omega)

/-- A range that could be read is written. -/
theorem Memory.written_of_range {m : Memory} {o k : Nat} {bs : List Byte} (h : Memory.range m o k = .ok bs) :
    Memory.written m o k := by
  obtain ⟨hl, hb⟩ := Memory.range_ok h
  intro i h1 h2
  have := hb (i - o) (by omega)
  rw [Nat.add_sub_cancel' h1] at this
  exact ⟨_, this⟩

/-- A field that cannot be read names a POISON byte that it touches. -/
theorem Memory.bits_error {m : Memory} {n i v a : Nat} (h : Memory.bits m n i v = .error a) :
    Memory.read m a = .poison ∧ ∃ j, i ≤ j ∧ j < i + n ∧ j / 8 = a := by
  induction n generalizing i v with
  | zero => simp [Memory.bits] at h
  | succ n ih =>
    simp only [Memory.bits] at h
    split at h
    · rename_i hp
      simp only [Except.error.injEq] at h
      subst h
      exact ⟨hp, i, le_rfl, by omega, rfl⟩
    · obtain ⟨hp, j, h1, h2, h3⟩ := ih h
      exact ⟨hp, j, by omega, by omega, h3⟩

end Sys2Proof.Machine
end

