-- ==== Sys2Proof/Laws/State.lean ====
section
/-! SUPPORT. Laws/State.lean: one lemma per field per update of the state, so that no proof unfolds an update. -/

namespace Sys2Proof.Machine

/-! `goto` writes PHASE. -/
@[simp] theorem State.goto_cfg (s : State) (p : Phase) : (s.goto p).cfg = s.cfg := rfl
@[simp] theorem State.goto_phase (s : State) (p : Phase) : (s.goto p).phase = p.code := rfl
@[simp] theorem State.goto_pos (s : State) (p : Phase) : (s.goto p).pos = s.pos := rfl
@[simp] theorem State.goto_cmdStart (s : State) (p : Phase) : (s.goto p).cmdStart = s.cmdStart := rfl
@[simp] theorem State.goto_len (s : State) (p : Phase) : (s.goto p).len = s.len := rfl
@[simp] theorem State.goto_wk (s : State) (p : Phase) : (s.goto p).wk = s.wk := rfl
@[simp] theorem State.goto_status (s : State) (p : Phase) : (s.goto p).status = s.status := rfl
@[simp] theorem State.goto_faultReg (s : State) (p : Phase) : (s.goto p).faultReg = s.faultReg := rfl
@[simp] theorem State.goto_endPos (s : State) (p : Phase) : (s.goto p).endPos = s.endPos := rfl
@[simp] theorem State.goto_consumed (s : State) (p : Phase) : (s.goto p).consumed = s.consumed := rfl
@[simp] theorem State.goto_feedOffset (s : State) (p : Phase) : (s.goto p).feedOffset = s.feedOffset := rfl
@[simp] theorem State.goto_feedLen (s : State) (p : Phase) : (s.goto p).feedLen = s.feedLen := rfl
@[simp] theorem State.goto_hdr (s : State) (p : Phase) : (s.goto p).hdr = s.hdr := rfl
@[simp] theorem State.goto_inBuf (s : State) (p : Phase) : (s.goto p).inBuf = s.inBuf := rfl
@[simp] theorem State.goto_sinkLog (s : State) (p : Phase) : (s.goto p).sinkLog = s.sinkLog := rfl
@[simp] theorem State.goto_turns (s : State) (p : Phase) : (s.goto p).turns = s.turns := rfl
@[simp] theorem State.goto_out (s : State) (p : Phase) : (s.goto p).out = s.out := rfl

/-! `advance` moves POS. -/
@[simp] theorem State.advance_cfg (s : State) (n : Nat) : (s.advance n).cfg = s.cfg := rfl
@[simp] theorem State.advance_phase (s : State) (n : Nat) : (s.advance n).phase = s.phase := rfl
@[simp] theorem State.advance_pos (s : State) (n : Nat) : (s.advance n).pos = s.pos + n := rfl
@[simp] theorem State.advance_cmdStart (s : State) (n : Nat) : (s.advance n).cmdStart = s.cmdStart := rfl
@[simp] theorem State.advance_len (s : State) (n : Nat) : (s.advance n).len = s.len := rfl
@[simp] theorem State.advance_wk (s : State) (n : Nat) : (s.advance n).wk = s.wk := rfl
@[simp] theorem State.advance_status (s : State) (n : Nat) : (s.advance n).status = s.status := rfl
@[simp] theorem State.advance_faultReg (s : State) (n : Nat) : (s.advance n).faultReg = s.faultReg := rfl
@[simp] theorem State.advance_endPos (s : State) (n : Nat) : (s.advance n).endPos = s.endPos := rfl
@[simp] theorem State.advance_consumed (s : State) (n : Nat) : (s.advance n).consumed = s.consumed := rfl
@[simp] theorem State.advance_feedOffset (s : State) (n : Nat) : (s.advance n).feedOffset = s.feedOffset := rfl
@[simp] theorem State.advance_feedLen (s : State) (n : Nat) : (s.advance n).feedLen = s.feedLen := rfl
@[simp] theorem State.advance_hdr (s : State) (n : Nat) : (s.advance n).hdr = s.hdr := rfl
@[simp] theorem State.advance_inBuf (s : State) (n : Nat) : (s.advance n).inBuf = s.inBuf := rfl
@[simp] theorem State.advance_sinkLog (s : State) (n : Nat) : (s.advance n).sinkLog = s.sinkLog := rfl
@[simp] theorem State.advance_turns (s : State) (n : Nat) : (s.advance n).turns = s.turns := rfl
@[simp] theorem State.advance_out (s : State) (n : Nat) : (s.advance n).out = s.out := rfl

/-! `answer` writes the output. -/
@[simp] theorem State.answer_cfg (s : State) (o : Output) : (s.answer o).cfg = s.cfg := rfl
@[simp] theorem State.answer_phase (s : State) (o : Output) : (s.answer o).phase = s.phase := rfl
@[simp] theorem State.answer_pos (s : State) (o : Output) : (s.answer o).pos = s.pos := rfl
@[simp] theorem State.answer_cmdStart (s : State) (o : Output) : (s.answer o).cmdStart = s.cmdStart := rfl
@[simp] theorem State.answer_len (s : State) (o : Output) : (s.answer o).len = s.len := rfl
@[simp] theorem State.answer_wk (s : State) (o : Output) : (s.answer o).wk = s.wk := rfl
@[simp] theorem State.answer_status (s : State) (o : Output) : (s.answer o).status = s.status := rfl
@[simp] theorem State.answer_faultReg (s : State) (o : Output) : (s.answer o).faultReg = s.faultReg := rfl
@[simp] theorem State.answer_endPos (s : State) (o : Output) : (s.answer o).endPos = s.endPos := rfl
@[simp] theorem State.answer_consumed (s : State) (o : Output) : (s.answer o).consumed = s.consumed := rfl
@[simp] theorem State.answer_feedOffset (s : State) (o : Output) : (s.answer o).feedOffset = s.feedOffset := rfl
@[simp] theorem State.answer_feedLen (s : State) (o : Output) : (s.answer o).feedLen = s.feedLen := rfl
@[simp] theorem State.answer_hdr (s : State) (o : Output) : (s.answer o).hdr = s.hdr := rfl
@[simp] theorem State.answer_inBuf (s : State) (o : Output) : (s.answer o).inBuf = s.inBuf := rfl
@[simp] theorem State.answer_sinkLog (s : State) (o : Output) : (s.answer o).sinkLog = s.sinkLog := rfl
@[simp] theorem State.answer_turns (s : State) (o : Output) : (s.answer o).turns = s.turns := rfl
@[simp] theorem State.answer_out (s : State) (o : Output) : (s.answer o).out = o := rfl

/-! `setWk` writes the working header. -/
@[simp] theorem State.setWk_cfg (s : State) (w : Wk) : (s.setWk w).cfg = s.cfg := rfl
@[simp] theorem State.setWk_phase (s : State) (w : Wk) : (s.setWk w).phase = s.phase := rfl
@[simp] theorem State.setWk_pos (s : State) (w : Wk) : (s.setWk w).pos = s.pos := rfl
@[simp] theorem State.setWk_cmdStart (s : State) (w : Wk) : (s.setWk w).cmdStart = s.cmdStart := rfl
@[simp] theorem State.setWk_len (s : State) (w : Wk) : (s.setWk w).len = s.len := rfl
@[simp] theorem State.setWk_wk (s : State) (w : Wk) : (s.setWk w).wk = w := rfl
@[simp] theorem State.setWk_status (s : State) (w : Wk) : (s.setWk w).status = s.status := rfl
@[simp] theorem State.setWk_faultReg (s : State) (w : Wk) : (s.setWk w).faultReg = s.faultReg := rfl
@[simp] theorem State.setWk_endPos (s : State) (w : Wk) : (s.setWk w).endPos = s.endPos := rfl
@[simp] theorem State.setWk_consumed (s : State) (w : Wk) : (s.setWk w).consumed = s.consumed := rfl
@[simp] theorem State.setWk_feedOffset (s : State) (w : Wk) : (s.setWk w).feedOffset = s.feedOffset := rfl
@[simp] theorem State.setWk_feedLen (s : State) (w : Wk) : (s.setWk w).feedLen = s.feedLen := rfl
@[simp] theorem State.setWk_hdr (s : State) (w : Wk) : (s.setWk w).hdr = s.hdr := rfl
@[simp] theorem State.setWk_inBuf (s : State) (w : Wk) : (s.setWk w).inBuf = s.inBuf := rfl
@[simp] theorem State.setWk_sinkLog (s : State) (w : Wk) : (s.setWk w).sinkLog = s.sinkLog := rfl
@[simp] theorem State.setWk_turns (s : State) (w : Wk) : (s.setWk w).turns = s.turns := rfl
@[simp] theorem State.setWk_out (s : State) (w : Wk) : (s.setWk w).out = s.out := rfl

/-! `emit` appends one event to the sink's log. -/
@[simp] theorem State.emit_cfg (s : State) (bytes : List Byte) : (s.emit bytes).cfg = s.cfg := rfl
@[simp] theorem State.emit_phase (s : State) (bytes : List Byte) : (s.emit bytes).phase = s.phase := rfl
@[simp] theorem State.emit_pos (s : State) (bytes : List Byte) : (s.emit bytes).pos = s.pos := rfl
@[simp] theorem State.emit_cmdStart (s : State) (bytes : List Byte) : (s.emit bytes).cmdStart = s.cmdStart := rfl
@[simp] theorem State.emit_len (s : State) (bytes : List Byte) : (s.emit bytes).len = s.len := rfl
@[simp] theorem State.emit_wk (s : State) (bytes : List Byte) : (s.emit bytes).wk = s.wk := rfl
@[simp] theorem State.emit_status (s : State) (bytes : List Byte) : (s.emit bytes).status = s.status := rfl
@[simp] theorem State.emit_faultReg (s : State) (bytes : List Byte) : (s.emit bytes).faultReg = s.faultReg := rfl
@[simp] theorem State.emit_endPos (s : State) (bytes : List Byte) : (s.emit bytes).endPos = s.endPos := rfl
@[simp] theorem State.emit_consumed (s : State) (bytes : List Byte) : (s.emit bytes).consumed = s.consumed := rfl
@[simp] theorem State.emit_feedOffset (s : State) (bytes : List Byte) : (s.emit bytes).feedOffset = s.feedOffset := rfl
@[simp] theorem State.emit_feedLen (s : State) (bytes : List Byte) : (s.emit bytes).feedLen = s.feedLen := rfl
@[simp] theorem State.emit_hdr (s : State) (bytes : List Byte) : (s.emit bytes).hdr = s.hdr := rfl
@[simp] theorem State.emit_inBuf (s : State) (bytes : List Byte) : (s.emit bytes).inBuf = s.inBuf := rfl
@[simp] theorem State.emit_sinkLog (s : State) (bytes : List Byte) : (s.emit bytes).sinkLog = s.sinkLog ++ [bytes] := rfl
@[simp] theorem State.emit_turns (s : State) (bytes : List Byte) : (s.emit bytes).turns = s.turns := rfl
@[simp] theorem State.emit_out (s : State) (bytes : List Byte) : (s.emit bytes).out = s.out := rfl

/-! `accept` starts a parse (R159). -/
@[simp] theorem accept_cfg (s : State) (start : Bool) (len : Nat) : (accept start len s).cfg = s.cfg := rfl
@[simp] theorem accept_phase (s : State) (start : Bool) (len : Nat) : (accept start len s).phase = (if start then Phase.pStart else Phase.pPayload).code := rfl
@[simp] theorem accept_pos (s : State) (start : Bool) (len : Nat) : (accept start len s).pos = 0 := rfl
@[simp] theorem accept_cmdStart (s : State) (start : Bool) (len : Nat) : (accept start len s).cmdStart = start := rfl
@[simp] theorem accept_len (s : State) (start : Bool) (len : Nat) : (accept start len s).len = len := rfl
@[simp] theorem accept_wk (s : State) (start : Bool) (len : Nat) : (accept start len s).wk = Wk.poison := rfl
@[simp] theorem accept_status (s : State) (start : Bool) (len : Nat) : (accept start len s).status = { Status.zero with busy := true } := rfl
@[simp] theorem accept_faultReg (s : State) (start : Bool) (len : Nat) : (accept start len s).faultReg = s.faultReg := rfl
@[simp] theorem accept_endPos (s : State) (start : Bool) (len : Nat) : (accept start len s).endPos = 0 := rfl
@[simp] theorem accept_consumed (s : State) (start : Bool) (len : Nat) : (accept start len s).consumed = .poison := rfl
@[simp] theorem accept_feedOffset (s : State) (start : Bool) (len : Nat) : (accept start len s).feedOffset = .poison := rfl
@[simp] theorem accept_feedLen (s : State) (start : Bool) (len : Nat) : (accept start len s).feedLen = .poison := rfl
@[simp] theorem accept_hdr (s : State) (start : Bool) (len : Nat) : (accept start len s).hdr = Hdr.poison := rfl
@[simp] theorem accept_inBuf (s : State) (start : Bool) (len : Nat) : (accept start len s).inBuf = s.inBuf := rfl
@[simp] theorem accept_sinkLog (s : State) (start : Bool) (len : Nat) : (accept start len s).sinkLog = s.sinkLog := rfl
@[simp] theorem accept_turns (s : State) (start : Bool) (len : Nat) : (accept start len s).turns = s.turns := rfl
@[simp] theorem accept_out (s : State) (start : Bool) (len : Nat) : (accept start len s).out = s.out := rfl

/-! `endParse` makes the writes every termination shares (R256). -/
@[simp] theorem endParse_cfg (s : State) (r : Result) (c : Cause) (p : BitVec 6) (v : Bool) : (endParse r c p v s).cfg = s.cfg := rfl
@[simp] theorem endParse_phase (s : State) (r : Result) (c : Cause) (p : BitVec 6) (v : Bool) : (endParse r c p v s).phase = Phase.idle.code := rfl
@[simp] theorem endParse_pos (s : State) (r : Result) (c : Cause) (p : BitVec 6) (v : Bool) : (endParse r c p v s).pos = s.pos := rfl
@[simp] theorem endParse_cmdStart (s : State) (r : Result) (c : Cause) (p : BitVec 6) (v : Bool) : (endParse r c p v s).cmdStart = s.cmdStart := rfl
@[simp] theorem endParse_len (s : State) (r : Result) (c : Cause) (p : BitVec 6) (v : Bool) : (endParse r c p v s).len = s.len := rfl
@[simp] theorem endParse_wk (s : State) (r : Result) (c : Cause) (p : BitVec 6) (v : Bool) : (endParse r c p v s).wk = s.wk := rfl
@[simp] theorem endParse_status (s : State) (r : Result) (c : Cause) (p : BitVec 6) (v : Bool) : (endParse r c p v s).status = 
      { s.status with result := r, cause := c, failPhase := p, valid := v, busy := false, done := true } := rfl
@[simp] theorem endParse_faultReg (s : State) (r : Result) (c : Cause) (p : BitVec 6) (v : Bool) : (endParse r c p v s).faultReg = s.faultReg := rfl
@[simp] theorem endParse_endPos (s : State) (r : Result) (c : Cause) (p : BitVec 6) (v : Bool) : (endParse r c p v s).endPos = s.pos := rfl
@[simp] theorem endParse_consumed (s : State) (r : Result) (c : Cause) (p : BitVec 6) (v : Bool) : (endParse r c p v s).consumed = s.consumed := rfl
@[simp] theorem endParse_feedOffset (s : State) (r : Result) (c : Cause) (p : BitVec 6) (v : Bool) : (endParse r c p v s).feedOffset = s.feedOffset := rfl
@[simp] theorem endParse_feedLen (s : State) (r : Result) (c : Cause) (p : BitVec 6) (v : Bool) : (endParse r c p v s).feedLen = s.feedLen := rfl
@[simp] theorem endParse_hdr (s : State) (r : Result) (c : Cause) (p : BitVec 6) (v : Bool) : (endParse r c p v s).hdr = s.hdr := rfl
@[simp] theorem endParse_inBuf (s : State) (r : Result) (c : Cause) (p : BitVec 6) (v : Bool) : (endParse r c p v s).inBuf = s.inBuf := rfl
@[simp] theorem endParse_sinkLog (s : State) (r : Result) (c : Cause) (p : BitVec 6) (v : Bool) : (endParse r c p v s).sinkLog = s.sinkLog := rfl
@[simp] theorem endParse_turns (s : State) (r : Result) (c : Cause) (p : BitVec 6) (v : Bool) : (endParse r c p v s).turns = s.turns := rfl
@[simp] theorem endParse_out (s : State) (r : Result) (c : Cause) (p : BitVec 6) (v : Bool) : (endParse r c p v s).out = s.out := rfl

/-! `failed` is a failure's termination (R256). -/
@[simp] theorem failed_cfg (s : State) (r : Result) (c : Cause) : (failed r c s).cfg = s.cfg := rfl
@[simp] theorem failed_phase (s : State) (r : Result) (c : Cause) : (failed r c s).phase = Phase.idle.code := rfl
@[simp] theorem failed_pos (s : State) (r : Result) (c : Cause) : (failed r c s).pos = s.pos := rfl
@[simp] theorem failed_cmdStart (s : State) (r : Result) (c : Cause) : (failed r c s).cmdStart = s.cmdStart := rfl
@[simp] theorem failed_len (s : State) (r : Result) (c : Cause) : (failed r c s).len = s.len := rfl
@[simp] theorem failed_wk (s : State) (r : Result) (c : Cause) : (failed r c s).wk = s.wk := rfl
@[simp] theorem failed_status (s : State) (r : Result) (c : Cause) : (failed r c s).status = 
      { s.status with result := r, cause := c, failPhase := s.phase, valid := false, busy := false, done := true } := rfl
@[simp] theorem failed_faultReg (s : State) (r : Result) (c : Cause) : (failed r c s).faultReg = s.faultReg := rfl
@[simp] theorem failed_endPos (s : State) (r : Result) (c : Cause) : (failed r c s).endPos = s.pos := rfl
@[simp] theorem failed_consumed (s : State) (r : Result) (c : Cause) : (failed r c s).consumed = s.consumed := rfl
@[simp] theorem failed_feedOffset (s : State) (r : Result) (c : Cause) : (failed r c s).feedOffset = s.feedOffset := rfl
@[simp] theorem failed_feedLen (s : State) (r : Result) (c : Cause) : (failed r c s).feedLen = s.feedLen := rfl
@[simp] theorem failed_hdr (s : State) (r : Result) (c : Cause) : (failed r c s).hdr = s.hdr := rfl
@[simp] theorem failed_inBuf (s : State) (r : Result) (c : Cause) : (failed r c s).inBuf = s.inBuf := rfl
@[simp] theorem failed_sinkLog (s : State) (r : Result) (c : Cause) : (failed r c s).sinkLog = s.sinkLog := rfl
@[simp] theorem failed_turns (s : State) (r : Result) (c : Cause) : (failed r c s).turns = s.turns := rfl
@[simp] theorem failed_out (s : State) (r : Result) (c : Cause) : (failed r c s).out = s.out := rfl

end Sys2Proof.Machine
end

