-- ==== Sys2Proof/Laws/Ops.lean ====
section
/-! SUPPORT. Laws/Ops.lean: for each shared operation, once, everything it can do: when it answers a next state, and
which. The meanings are over these operations; proofs cite these lemmas. -/

namespace Sys2Proof.Machine

theorem available_iff {n : Nat} {s : State} (h : 1 ≤ n) : available n s = true ↔ s.pos + n ≤ 8 * s.len := by
  simp only [available, decide_eq_true_eq]
  omega

/-! ## The Bit Reader -/

/-- A readable field is read: its value is that of its stream bits, and POS moves on by its width. -/
theorem readBits_of_readable {n : Nat} {s : State} (h : s.readable n) :
    readBits n s = .value (streamValue s.inBuf s.pos n) (s.advance n) := by
  obtain ⟨h1, h2, h3, h4⟩ := h
  have hb := Memory.bits_of_written (v := 0) h4
  have ha := (available_iff h1).2 h3
  simp only [readBits, if_neg (show ¬(n = 0 ∨ s.cfg.readWidth < n) by omega), if_pos ha, hb]
  simp

/-- A field that does not fit consumes nothing (R121). -/
theorem readBits_short {n : Nat} {s : State} (h1 : 1 ≤ n) (h2 : n ≤ s.cfg.readWidth)
    (h : 8 * s.len < s.pos + n) : readBits n s = .short := by
  have ha : ¬(available n s = true) := by rw [available_iff h1]; omega
  simp only [readBits, if_neg (show ¬(n = 0 ∨ s.cfg.readWidth < n) by omega), if_neg ha]

/-- Everything `ReadBits(n)` can answer. -/
theorem readBits_cases (n : Nat) (s : State) :
    (readBits n s = .badWidth ∧ (n = 0 ∨ s.cfg.readWidth < n)) ∨
    (readBits n s = .short ∧ 8 * s.len < s.pos + n) ∨
    (∃ a, readBits n s = .unwritten a ∧ s.pos + n ≤ 8 * s.len ∧ Memory.read s.inBuf a = .poison ∧
      s.pos / 8 ≤ a ∧ a < s.len) ∨
    (readBits n s = .value (streamValue s.inBuf s.pos n) (s.advance n) ∧ s.pos + n ≤ 8 * s.len ∧ 1 ≤ n) := by
  by_cases hw : n = 0 ∨ s.cfg.readWidth < n
  · exact .inl ⟨by simp only [readBits, if_pos hw], hw⟩
  · have h1 : 1 ≤ n := by omega
    by_cases ha : available n s = true
    · have hfit := (available_iff h1).1 ha
      cases hb : Memory.bits s.inBuf n s.pos 0 with
      | error a =>
        obtain ⟨hp, j, hj1, hj2, hj3⟩ := Memory.bits_error hb
        exact .inr (.inr (.inl ⟨a, by simp only [readBits, if_neg hw, if_pos ha, hb], hfit, hp, by omega, by omega⟩))
      | ok v =>
        have hv := Memory.bits_ok hb
        simp only [Nat.mul_zero, Nat.zero_add] at hv
        exact .inr (.inr (.inr ⟨by simp only [readBits, if_neg hw, if_pos ha, hb, hv], hfit, h1⟩))
    · refine .inr (.inl ⟨by simp only [readBits, if_neg hw, if_neg ha], ?_⟩)
      rw [available_iff h1] at ha
      omega

/-- A field that was read is readable. -/
theorem readable_of_readBits {n v : Nat} {s t : State} (h : readBits n s = .value v t) : s.readable n := by
  unfold readBits at h
  split at h
  · cases h
  · rename_i hw
    split at h
    · rename_i ha
      split at h
      · rename_i x hx
        exact ⟨by omega, by omega, (available_iff (by omega)).1 ha, Memory.written_of_bits hx⟩
      · cases h
    · cases h

/-- A field of which `ReadBits` finds a byte never written is not readable. -/
theorem not_readable_of_readBits {n a : Nat} {s : State} (h : readBits n s = .unwritten a) : ¬s.readable n := by
  intro hr
  rw [readBits_of_readable hr] at h
  cases h

/-! ## Registers that may be POISON -/

theorem needs_val {α : Type} (r : RegName) (x : α) (k : α → Out) : needs r (.val x) k = k x := rfl

theorem needs_poison {α : Type} (r : RegName) (k : α → Out) : needs r .poison k = .fault (.readPoison r) := rfl

/-- A read of a register that answers a next state found a value. -/
theorem needs_next {α : Type} {r : RegName} {v : Poisonable α} {k : α → Out} {t : State}
    (h : needs r v k = .next t) : ∃ x, v = .val x ∧ k x = .next t := by
  cases v with
  | poison => cases h
  | val x => exact ⟨x, rfl, h⟩

/-! ## Terminate -/

theorem terminate_malformed (c : Cause) (s : State) : terminate .malformed c s = .next (failed .malformed c s) := rfl

theorem terminate_unsupported (c : Cause) (s : State) :
    terminate .unsupported c s = .next (failed .unsupported c s) := rfl

theorem terminate_truncated (c : Cause) (s : State) : terminate .truncated c s = .next (failed .truncated c s) := rfl

theorem failed_eq_failure (r : Result) (c : Cause) (s : State) : failed r c s = s.failure r c := rfl

/-- Everything `Terminate(OK, NONE)` can answer with a next state. -/
theorem terminateOk_next {s t : State} (h : terminateOk s = .next t) :
    (s.cmdStart = false ∧ t = endParse .ok .none 0 s.cfg.contValid s) ∨
    (s.cmdStart = true ∧ ∃ hc, commitHeader s.cfg.streamIds s.wk = .ok hc ∧
      t = endParse .ok .none 0 true
        { s with hdr := hc.hdr, status := s.status.withHeader s.cfg.streamIds hc }) := by
  unfold terminateOk at h
  cases hs : s.cmdStart with
  | false =>
    simp only [hs, Bool.false_eq_true, if_false, Host.Outcome.next.injEq] at h
    exact .inl ⟨rfl, h.symm⟩
  | true =>
    simp only [hs, if_true] at h
    split at h
    · cases h
    · rename_i hc hcm
      exact .inr ⟨rfl, hc, hcm, (Host.Outcome.next.inj h).symm⟩

/-! ## Reading a field -/

/-- "read n bits into F" of a readable field. -/
theorem readField_of_readable {n : Nat} {s : State} (h : s.readable n) (k : Nat → State → Out) :
    readField n s k = k (streamValue s.inBuf s.pos n) (s.advance n) := by
  simp only [readField, readBits_of_readable h]

/-- "read n bits into F" of a field that does not fit: TRUNCATED SHORT_FIELD, nothing consumed. -/
theorem readField_short {n : Nat} {s : State} (h1 : 1 ≤ n) (h2 : n ≤ s.cfg.readWidth)
    (h : 8 * s.len < s.pos + n) (k : Nat → State → Out) :
    readField n s k = .next (failed .truncated .shortField s) := by
  simp only [readField, readBits_short h1 h2 h, terminate_truncated]

/-- Everything "read n bits into F" can answer with a next state. -/
theorem readField_next {n : Nat} {s t : State} {k : Nat → State → Out} (h : readField n s k = .next t) :
    (8 * s.len < s.pos + n ∧ t = failed .truncated .shortField s) ∨
    (s.pos + n ≤ 8 * s.len ∧ 1 ≤ n ∧ k (streamValue s.inBuf s.pos n) (s.advance n) = .next t) := by
  simp only [readField] at h
  rcases readBits_cases n s with ⟨hr, -⟩ | ⟨hr, hs⟩ | ⟨a, hr, -⟩ | ⟨hr, hs, h1⟩ <;> rw [hr] at h
  · cases h
  · exact .inl ⟨hs, (Host.Outcome.next.inj h).symm⟩
  · cases h
  · exact .inr ⟨hs, h1, h⟩

/-- Everything a phase that only records its field can answer with a next state. -/
theorem fieldPhase_next {n : Nat} {write : BitVec n → Wk → Wk} {p : Phase} {s t : State}
    (h : fieldPhase n write p s = .next t) :
    (8 * s.len < s.pos + n ∧ t = failed .truncated .shortField s) ∨
    (s.pos + n ≤ 8 * s.len ∧ 1 ≤ n ∧
      t = ((s.advance n).setWk (write (BitVec.ofNat n (streamValue s.inBuf s.pos n)) s.wk)).goto p) := by
  rcases readField_next h with h | ⟨h1, h2, h3⟩
  · exact .inl h
  · exact .inr ⟨h1, h2, (Host.Outcome.next.inj h3).symm⟩

/-- Everything a phase that checks a marker can answer with a next state. -/
theorem markerPhase_next {c : Cause} {k : State → Out} {s t : State} (h : markerPhase c k s = .next t) :
    (8 * s.len < s.pos + 1 ∧ t = failed .truncated .shortField s) ∨
    (s.pos + 1 ≤ 8 * s.len ∧ streamValue s.inBuf s.pos 1 ≠ 1 ∧ t = failed .malformed c (s.advance 1)) ∨
    (s.pos + 1 ≤ 8 * s.len ∧ streamValue s.inBuf s.pos 1 = 1 ∧ k (s.advance 1) = .next t) := by
  rcases readField_next h with h | ⟨h1, -, h3⟩
  · exact .inl h
  · split at h3
    · rename_i hne
      exact .inr (.inl ⟨h1, hne, (Host.Outcome.next.inj h3).symm⟩)
    · rename_i heq
      exact .inr (.inr ⟨h1, not_not.1 heq, h3⟩)

/-- What P_PDF does with the flags always answers a next state: the failure, or the next phase (R171). -/
theorem flagsRead_eq (flags : BitVec 2) (s : State) :
    flagsRead flags s =
      .next (if flags = 0b01 ∧ s.cfg.forbiddenPolicy = .failFast
        then failed .malformed .forbiddenPtsDts (s.setWk { s.wk with ptsDtsFlags := .val flags })
        else (s.setWk { s.wk with ptsDtsFlags := .val flags }).goto .pEscrf) := by
  simp only [flagsRead, State.setWk_cfg, terminate_malformed]
  exact (apply_ite Host.Outcome.next _ _ _).symm

/-! ## Commands -/

/-- A command always answers a next state: one of the two FAULT bits, or the accept (R159). -/
theorem command_eq (start : Bool) (len : Nat) (s : State) :
    command start len s = .next (
      if s.status.busy then { s with faultReg := { s.faultReg with cmdWhileBusy := true } }
      else if s.cfg.maxLen < len then { s with faultReg := { s.faultReg with lenOverMax := true } }
      else accept start len s) := by
  unfold command
  split
  · rfl
  · split <;> rfl

end Sys2Proof.Machine
end

