-- ==== Sys2Proof/Laws/Step.lean ====
section
/-! SUPPORT. Laws/Step.lean: which instruction a step runs, and in which state. -/

namespace Sys2Proof.Machine

theorem step_of_fetch {s s' : State} {i : Instr} (h : fetch s = .run i s') : step s = exec i s' := by
  simp only [step, h]

/-- A step that answers a next state ran an instruction. -/
theorem step_next {s t : State} (h : step s = .next t) : ∃ i s', fetch s = .run i s' ∧ exec i s' = .next t := by
  simp only [step] at h
  split at h
  · rename_i i s' hf
    exact ⟨i, s', hf, h⟩
  · cases h
  · cases h

theorem fetchWord_of_decode {w : PortWord} {s : State} {i : Instr} (h : decode s.cfg w = .ok i) :
    fetchWord w s = .run i s := by
  simp only [fetchWord, h]

theorem fetchWord_run {w : PortWord} {s s' : State} {i : Instr} (h : fetchWord w s = .run i s') :
    decode s.cfg w = .ok i ∧ s' = s := by
  simp only [fetchWord] at h
  split at h
  · rename_i j hj
    injection h with h1 h2
    subst h1
    exact ⟨hj, h2.symm⟩
  · cases h

/-- The fetch takes at most the head of the list of turns off the state, and changes nothing else. -/
theorem fetch_run {s s' : State} {i : Instr} (h : fetch s = .run i s') :
    ∃ rest, (s.turns = rest ∧ rest = [] ∨ ∃ x, s.turns = x :: rest) ∧ s' = { s with turns := rest } := by
  unfold fetch at h
  split at h
  · rename_i ht
    refine ⟨[], .inl ⟨ht, rfl⟩, ?_⟩
    simp only [fetchPhase] at h
    split at h
    · rw [(fetchWord_run h).2, ← ht]
    · cases h
  · rename_i rest ht
    refine ⟨rest, .inr ⟨_, ht⟩, ?_⟩
    simp only [fetchPhase] at h
    split at h
    · exact (fetchWord_run h).2
    · cases h
  · rename_i w rest ht
    refine ⟨rest, .inr ⟨_, ht⟩, ?_⟩
    split at h
    · exact (fetchWord_run h).2
    · cases h
  · rename_i w rest ht
    refine ⟨rest, .inr ⟨_, ht⟩, ?_⟩
    split at h
    · exact (fetchWord_run h).2
    · cases h

end Sys2Proof.Machine
end

