-- ==== Sys2Proof/Machine/Run.lean ====
section
/-! DEFINITION. Machine/Run.lean: where a run ends and what a host then observes (60_exceptions.md R272). -/

namespace Sys2Proof.Machine

/-- `t` is the first state of the run from `s`, reached after `n` steps, that satisfies `p`. -/
def State.firstAfter (p : State → Bool) (s : State) (n : Nat) (t : State) : Prop :=
  core.run n s = .next t ∧ p t = true ∧ ∀ k < n, ∀ u, core.run k s = .next u → p u = false

/-- "`PHASE = IDLE` and `STATUS.DONE = 1`". -/
def State.commandDone (s : State) : Bool := s.phase == Phase.idle.code && s.status.done

/-- The run of one command, from the state `s` its accept leaves, ends in `t` after `n` steps: "at the first state after
its accept in which `PHASE = IDLE` and `STATUS.DONE = 1`" (R272). -/
def State.commandEnds (s : State) (n : Nat) (t : State) : Prop := s.firstAfter State.commandDone n t

/-- The host has no action left and PESP is IDLE. -/
def State.programDone (s : State) : Bool := s.turns.isEmpty && s.phase == Phase.idle.code

/-- The run of a host program, from the state `s` in which it is loaded, ends in `t` after `n` steps: "when its last
action is done and PESP is IDLE" (R272). -/
def State.programEnds (s : State) (n : Nat) (t : State) : Prop := s.firstAfter State.programDone n t

/-- "the registers of 10_state.md rule R29 that are not POISON" (R272): the number and the value of each register that
RegRead answers. -/
def State.observedRegisters (s : State) : List (BitVec 8 × BitVec 64) :=
  (List.range 16).filterMap (fun k =>
    match registerValue s (BitVec.ofNat 8 k) with
    | .ok v => some (BitVec.ofNat 8 k, v)
    | .error _ => none)

/-- The observation of a run of one command (R272). -/
structure RunObservation where
  status    : BitVec 32
  registers : List (BitVec 8 × BitVec 64)
  event     : Option (List Byte)
  deriving DecidableEq, Repr

/-- What a host observes of the state `t` in which the run of a command ends, whose accept left the state `s`: the event
is the one that `SINK_LOG` holds beyond the events it held then. -/
def State.observeSince (s t : State) : RunObservation :=
  { status := t.status.readWord, registers := t.observedRegisters,
    event := (t.sinkLog.drop s.sinkLog.length).head? }

end Sys2Proof.Machine
end

