-- ==== Sys2Proof/Laws/Run.lean ====
section
/-! SUPPORT. Laws/Run.lean: what runs do to the list of turns, and that a run has one end. -/

namespace Sys2Proof.Machine

/-! ## The list of turns -/

theorem terminate_turns {r : Result} {c : Cause} {s t : State} (h : terminate r c s = .next t) : t.turns = s.turns := by
  cases r with
  | ok =>
    rcases terminateOk_next h with ⟨-, rfl⟩ | ⟨-, hc, -, rfl⟩ <;> rfl
  | malformed => cases h; rfl
  | unsupported => cases h; rfl
  | truncated => cases h; rfl

theorem needs_turns {α : Type} {r : RegName} {v : Poisonable α} {k : α → Out} {t : State} {l : List Turn}
    (hk : ∀ x, k x = .next t → t.turns = l) (h : needs r v k = .next t) : t.turns = l := by
  obtain ⟨x, -, hx⟩ := needs_next h
  exact hk x hx

theorem readField_turns {n : Nat} {k : Nat → State → Out} {s t : State}
    (hk : ∀ v, k v (s.advance n) = .next t → t.turns = s.turns) (h : readField n s k = .next t) :
    t.turns = s.turns := by
  rcases readField_next h with ⟨-, rfl⟩ | ⟨-, -, h⟩
  · rfl
  · exact hk _ h

theorem markerPhase_turns {c : Cause} {k : State → Out} {s t : State}
    (hk : k (s.advance 1) = .next t → t.turns = s.turns) (h : markerPhase c k s = .next t) : t.turns = s.turns := by
  rcases markerPhase_next h with ⟨-, rfl⟩ | ⟨-, -, rfl⟩ | ⟨-, -, h⟩
  · rfl
  · rfl
  · exact hk h

theorem fieldPhase_turns {n : Nat} {write : BitVec n → Wk → Wk} {p : Phase} {s t : State}
    (h : fieldPhase n write p s = .next t) : t.turns = s.turns := by
  rcases fieldPhase_next h with ⟨-, rfl⟩ | ⟨-, -, rfl⟩ <;> rfl

theorem flagsRead_turns {f : BitVec 2} {s t : State} (h : flagsRead f s = .next t) : t.turns = s.turns := by
  rw [flagsRead_eq] at h
  cases h
  split <;> rfl

theorem command_turns {start : Bool} {len : Nat} {s t : State} (h : command start len s = .next t) :
    t.turns = s.turns := by
  rw [command_eq] at h
  cases h
  split
  · rfl
  · split <;> rfl

theorem check_turns {p : Prop} [Decidable p] {r : Result} {c : Cause} {u v t : State} {l : List Turn}
    (h : (if p then terminate r c u else .next v) = .next t) (hu : u.turns = l) (hv : v.turns = l) : t.turns = l := by
  split at h
  · rw [terminate_turns h, hu]
  · cases h; exact hv

/-- No instruction touches the list of turns: it is the fetch that takes one off. -/
theorem exec_turns {i : Instr} {s t : State} (h : exec i s = .next t) : t.turns = s.turns := by
  cases i with
  | parseS | parseC => exact command_turns h
  | inWrite a b =>
    simp only [exec, execInWrite] at h
    split at h
    · cases h
    · split at h <;> cases h <;> rfl
  | regRead n =>
    simp only [exec, execRegRead] at h
    split at h
    · cases h; rfl
    · cases h
  | classify | reset | bytesLeft | isAudioStream | isVideoStream | isPaddingStream | hasOptionalHeader
  | sidPsm | sidPadding | sidPriv2 | sidEcm | sidEmm | sidDsmcc | sidH2221e | sidPsd | sidAudio | sidVideo | sidOther
  | idle => cases h; rfl
  | readBit | readBits => exact readField_turns (fun v hv => by cases hv; rfl) h
  | current =>
    simp only [exec, execCurrent] at h
    split at h
    · cases h; rfl
    · cases h
  | pdfNone | pdfForbidden | pdfPts | pdfPtsDts =>
    simp only [exec, execPdfNone, execPdfForbidden, execPdfPts, execPdfPtsDts, flagsRow] at h
    exact (flagsRead_turns h).trans rfl
  | pStart | pFixed | pDtsPfx =>
    simp only [exec, execPStart, execPFixed, execPDtsPfx] at h
    exact readField_turns (fun v hv => check_turns hv (by rfl) (by rfl)) h
  | pSid | pScr | pPri | pDai | pCpy | pOoc | pEscrf | pEsrf | pDsmf | pAcif | pCrcf | pExtf
  | pPtsHi | pPtsMid | pPtsLo | pDtsHi | pDtsMid | pDtsLo =>
    simp only [exec, execPSid, execPScr, execPPri, execPDai, execPCpy, execPOoc, execPEscrf, execPEsrf, execPDsmf,
      execPAcif, execPCrcf, execPExtf, execPPtsHi, execPPtsMid, execPPtsLo, execPDtsHi, execPDtsMid, execPDtsLo] at h
    exact fieldPhase_turns h
  | pLen | pHdl => exact readField_turns (fun v hv => needs_turns (fun x hx => by cases hx; rfl) hv) h
  | pPdf => exact readField_turns (fun v hv => (flagsRead_turns hv).trans rfl) h
  | pPtsPfx =>
    simp only [exec, execPPtsPfx] at h
    exact readField_turns (fun v hv => needs_turns (fun x hx => check_turns hx (by rfl) (by rfl)) hv) h
  | pPtsM0 | pPtsM1 | pDtsM0 | pDtsM1 => exact markerPhase_turns (fun hk => by cases hk; rfl) h
  | pPtsM2 =>
    exact markerPhase_turns (needs_turns fun _ => needs_turns fun _ => needs_turns fun _ => needs_turns
      fun _ hk => by cases hk; rfl) h
  | pDtsM2 =>
    exact markerPhase_turns (needs_turns fun _ => needs_turns fun _ => needs_turns fun _ hk => by cases hk; rfl) h
  | pExtchk =>
    simp only [exec, execPExtchk] at h
    split at h
    · cases h
    · exact check_turns h (by rfl) (by rfl)
  | pPayloadPad =>
    simp only [exec, execPPayloadPad] at h
    exact needs_turns (fun x hx => check_turns hx (by rfl) (by rfl)) h
  | pPayloadFwd =>
    simp only [exec, execPPayloadFwd] at h
    split at h
    · cases h
    · split at h
      · cases h
      · cases h; rfl
  | pCommit =>
    simp only [exec, execPCommit] at h
    split at h
    · refine needs_turns (fun id hid => ?_) h
      split at hid
      · refine needs_turns (fun f hf => ?_) hid
        split at hf <;> exact terminate_turns hf
      · exact terminate_turns hid
    · exact terminate_turns h
  | phaseReserved => cases h

/-- A step takes the next turn off the list. -/
theorem step_turns {s t : State} (h : step s = .next t) : t.turns = s.turns.tail := by
  obtain ⟨i, s', hf, he⟩ := step_next h
  obtain ⟨rest, hr, rfl⟩ := fetch_run hf
  rw [exec_turns he]
  rcases hr with ⟨hs, rfl⟩ | ⟨x, hs⟩ <;> simp [hs]

/-- With no turn listed, none comes. -/
theorem run_turns_nil {n : Nat} {s t : State} (hs : s.turns = []) (h : core.run n s = .next t) : t.turns = [] := by
  induction n generalizing s with
  | zero => cases h; exact hs
  | succ n ih =>
    simp only [Host.Core.run] at h
    split at h
    · rename_i u hu
      exact ih (by rw [step_turns hu, hs]; rfl) h
    · cases h
    · cases h

/-- A parse left to itself is quiet. -/
theorem quietUntilDone_of_turns_nil {s : State} (hs : s.turns = []) : s.quietUntilDone := by
  intro k u hu _ x hx
  simp [run_turns_nil hs hu] at hx

/-- A run has one end (R272). -/
theorem firstAfter_unique {p : State → Bool} {s t u : State} {n m : Nat} (ht : s.firstAfter p n t)
    (hu : s.firstAfter p m u) : n = m ∧ t = u := by
  have hnm : n = m := by
    rcases lt_trichotomy n m with h | h | h
    · exact absurd ht.2.1 (by simp [hu.2.2 n h t ht.1])
    · exact h
    · exact absurd hu.2.1 (by simp [ht.2.2 m h u hu.1])
  subst hnm
  exact ⟨rfl, Host.Outcome.next.inj (ht.1.symm.trans hu.1)⟩

end Sys2Proof.Machine
end

