-- ==== Sys2Proof/Tests/Slice0.lean ====
section
/-! SUPPORT. Tests/Slice0.lean: the WellFormed smoke, every instruction's word written out from the spec's encodings, one
step vectors of spec/95_test_vectors.md, and for each statement that has hypotheses a witness that meets them. -/

open Sys2Proof Sys2Proof.Machine

namespace Sys2Proof.Tests

/-! ## Small states -/

/-- Bytes at the addresses from 0 on. -/
def memOf (bytes : List Byte) : Memory := bytes.zipIdx.map (fun x => (x.2, x.1))

/-- PESP in IDLE with bytes in `IN`. -/
def idleWith (bytes : List Byte) : State := { State.reset with inBuf := memOf bytes }

/-- The 21 bytes of PKT-A (42_header_parser.md). -/
def pktA : List Byte :=
  [0x00, 0x00, 0x01, 0xE0, 0x00, 0x0F, 0x84, 0xC0, 0x0A, 0x39, 0x8D, 0x15, 0xCF, 0x13, 0x19, 0x8D, 0x15, 0x00, 0x01,
   0xAA, 0xBB]

/-- The working header of PKT-A, all of it (95_test_vectors.md V20). -/
def wkA : Wk :=
  { startCode := .val 0x000001, streamId := .val 0xE0, packetLength := .val 0x000F, fixed := .val 0b10,
    scrambling := .val 0, priority := .val 0, dai := .val 1, copyright := .val 0, original := .val 0,
    ptsDtsFlags := .val 0b11, escrFlag := .val 0, esRateFlag := .val 0, dsmTrickFlag := .val 0, aciFlag := .val 0,
    crcFlag := .val 0, extFlag := .val 0, hdl := .val 0x0A, ptsHi := .val 4, ptsMid := .val 0x468A,
    ptsLo := .val 0x6789, pts := .val 0x123456789, dtsHi := .val 4, dtsMid := .val 0x468A, dtsLo := .val 0,
    dts := .val 0x123450000 }

/-- A start parse of PKT-A that stands in a phase. -/
def parsingA (phase : BitVec 6) (pos : Nat) : State :=
  { accept true 21 (idleWith pktA) with phase := phase, pos := pos, wk := wkA }

/-- A start parse of the first `len` bytes of a range, in a phase. -/
def parsing (bytes : List Byte) (phase : BitVec 6) (pos : Nat) (w : Wk) : State :=
  { accept true bytes.length (idleWith bytes) with phase := phase, pos := pos, wk := w }

/-- PKT-A's last state before P_COMMIT, and its state after it. -/
def committing : State :=
  { parsingA 0x22 168 with
    consumed := .val 2, feedOffset := .val 19, feedLen := .val 2
    status := { Status.zero with busy := true, fed := true }
    sinkLog := [[0xAA, 0xBB]] }

/-- The outcome's state, or reset. -/
def after (o : Out) : State :=
  match o with
  | .next s => s
  | .fault _ => State.reset
  | .refused _ => State.reset

theorem progress_idle {s : State} (h : s.phase = Phase.idle.code) : s.progressInv := fun hp => absurd h hp

theorem progress_start {s : State} (hs : s.cmdStart = true) (h1 : s.fixedPartInv) (h2 : s.flagClusterInv)
    (h3 : s.timestampsInv) (hp : s.phase ≠ Phase.pCommit.code → s.pos = s.phasePos) : s.progressInv := by
  intro _
  rw [if_pos hs]
  exact ⟨⟨h1, fun _ _ => ⟨h2, h3⟩⟩, hp⟩

theorem inv_idle {s : State} (h1 : s.cfg.wf = true) (h2 : s.memoryInv) (h3 : s.boundsInv) (h4 : s.controlInv)
    (h5 : s.registersInv) (h6 : s.verdictInv) (h7 : s.payloadInv) (h8 : s.phase = Phase.idle.code) : s.Inv :=
  ⟨h1, h2, h3, h4, h5, h6, h7, progress_idle h8⟩

theorem inv_reset : State.reset.Inv :=
  inv_idle rfl (by decide) (by decide) (by decide) (by decide) (by decide) (by decide) rfl

theorem inv_parsing_pts_lo : (parsingA 0x17 96).Inv :=
  ⟨rfl, by decide, by decide, by decide, by decide, by decide, by decide,
   progress_start rfl (by decide) (by decide) (by decide) (by decide)⟩

theorem inv_committing : committing.Inv :=
  ⟨rfl, by decide, by decide, by decide, by decide, by decide, by decide,
   progress_start rfl (by decide) (by decide) (by decide) (by decide)⟩

/-! ## WellFormed: an ill-formed term for each check -/

/-- A table whose eight ids are all the first row's. -/
def allPsm : Config :=
  { Config.standard with streamIds := ⟨0xBC, 0xBC, 0xBC, 0xBC, 0xBC, 0xBC, 0xBC, 0xBC⟩ }

/-- A table that takes an audio id and a video id for named streams. -/
def inRanges : Config :=
  { Config.standard with streamIds := ⟨0xC5, 0xE7, 0xBF, 0xF0, 0xF1, 0xFF, 0xF2, 0xF8⟩ }

theorem test_wf_operands_refused :
    [Instr.parseS 512, .parseC 512, .readBits 64, .phaseReserved 0x22].all
      (fun i => !i.wf Config.standard) = true := by decide

theorem test_wf_rows_refused :
    [Instr.sidPadding, .sidPriv2, .sidEcm, .sidEmm, .sidDsmcc, .sidH2221e, .sidPsd].all
      (fun i => !i.wf allPsm) = true ∧
    [Instr.sidAudio 5, .sidVideo 7, .sidOther 0xC0].all (fun i => !i.wf inRanges) = true := by decide

theorem test_wf_accepted :
    [Instr.parseS 511, .parseC 0, .inWrite 70000 0, .readBits 63, .sidPsm, .sidPadding, .sidAudio 31, .sidVideo 0,
      .sidOther 0xFE, .phaseReserved 0x23, .phaseReserved 0x3F].all (fun i => i.wf Config.standard) = true := by decide

theorem test_config_refused :
    { Config.standard with readWidth := 23 }.wf = false ∧ allPsm.wf = false ∧ Config.standard.wf = true := by decide

/-! ## Decoding: words written out from the spec's encodings -/

/-- Whether a word decodes to an instruction under the default parameters. -/
def decodesTo (x : PortWord × Instr) : Bool := decide (decode Config.standard x.1 = .ok x.2)

/-- Commands (R80: `start` is bit 0, `len` has 9 bits under MAX_LEN = 256), host ports (R61, R29, R145, R290) and the
reader's selector (R104). -/
theorem test_decode_ports :
    [(⟨.command, [0x01, 0x15, 0x00]⟩, Instr.parseS 21), (⟨.command, [0x00, 0x02, 0x01]⟩, .parseC 258),
     (⟨.inWrite, [0xFF, 0x2C, 0x01]⟩, .inWrite 300 0xFF), (⟨.regRead, [0x0E]⟩, .regRead 14),
     (⟨.classify, [0xBD]⟩, .classify 0xBD), (⟨.reset, []⟩, .reset), (⟨.reader, [0b00]⟩, .readBit),
     (⟨.reader, [0b01, 24]⟩, .readBits 24), (⟨.reader, [0b10]⟩, .bytesLeft), (⟨.reader, [0b11]⟩, .current)].all
      decodesTo = true := by decide

/-- The predicates (R140 to R143), the rows of the stream-id map (R94) and of the PTS_DTS_flags table (R86). -/
theorem test_decode_classifier :
    [(⟨.isAudio, [0xC5]⟩, Instr.isAudioStream 0xC5), (⟨.isVideo, [0xE0]⟩, .isVideoStream 0xE0),
     (⟨.isPadding, [0xBE]⟩, .isPaddingStream 0xBE), (⟨.hasOptional, [0xBC]⟩, .hasOptionalHeader 0xBC),
     (⟨.streamId, [0xBC]⟩, .sidPsm), (⟨.streamId, [0xBE]⟩, .sidPadding), (⟨.streamId, [0xBF]⟩, .sidPriv2),
     (⟨.streamId, [0xF0]⟩, .sidEcm), (⟨.streamId, [0xF1]⟩, .sidEmm), (⟨.streamId, [0xF2]⟩, .sidDsmcc),
     (⟨.streamId, [0xF8]⟩, .sidH2221e), (⟨.streamId, [0xFF]⟩, .sidPsd), (⟨.streamId, [0xDF]⟩, .sidAudio 0x1F),
     (⟨.streamId, [0xEF]⟩, .sidVideo 0xF), (⟨.streamId, [0xBD]⟩, .sidOther 0xBD),
     (⟨.ptsDtsFlags, [0x3F]⟩, .pdfNone 0x3F), (⟨.ptsDtsFlags, [0x40]⟩, .pdfForbidden 0),
     (⟨.ptsDtsFlags, [0x81]⟩, .pdfPts 1), (⟨.ptsDtsFlags, [0xC0]⟩, .pdfPtsDts 0)].all decodesTo = true := by decide

/-- PHASE codes (R96), first half. -/
def phaseWords1 : List (Byte × Instr) :=
  [(0x00, .idle), (0x01, .pStart), (0x02, .pSid), (0x03, .pLen), (0x04, .pFixed), (0x05, .pScr),
   (0x06, .pPri), (0x07, .pDai), (0x08, .pCpy), (0x09, .pOoc), (0x0A, .pPdf), (0x0B, .pEscrf), (0x0C, .pEsrf),
   (0x0D, .pDsmf), (0x0E, .pAcif), (0x0F, .pCrcf), (0x10, .pExtf), (0x11, .pHdl), (0x12, .pPtsPfx)]

/-- PHASE codes (R96), second half, with the padding branch's mark (notes/assumptions/15.md) and a reserved code (R98). -/
def phaseWords2 : List (Byte × Instr) :=
  [(0x13, .pPtsHi), (0x14, .pPtsM0), (0x15, .pPtsMid), (0x16, .pPtsM1), (0x17, .pPtsLo), (0x18, .pPtsM2),
   (0x19, .pDtsPfx), (0x1A, .pDtsHi), (0x1B, .pDtsM0), (0x1C, .pDtsMid), (0x1D, .pDtsM1), (0x1E, .pDtsLo),
   (0x1F, .pDtsM2), (0x20, .pExtchk), (0x21, .pPayloadFwd), (0x61, .pPayloadPad), (0x22, .pCommit),
   (0x2A, .phaseReserved 0x2A)]

theorem test_decode_phases :
    (phaseWords1 ++ phaseWords2).all (fun x => decodesTo (⟨.phase, [x.1]⟩, x.2)) = true := by decide

/-- Words that are no instruction, by name. -/
theorem test_decode_rejects :
    decode Config.standard ⟨.command, [0x02, 0, 0]⟩ = .error .reservedBits ∧
    decode Config.standard ⟨.command, [0x01, 0, 2]⟩ = .error .operandTooWide ∧
    decode Config.standard ⟨.command, [0x01, 0]⟩ = .error .wrongLength ∧
    decode Config.standard ⟨.phase, [0x80]⟩ = .error .reservedBits ∧
    decode Config.standard ⟨.regRead, []⟩ = .error .wrongLength := by decide

/-- Words of opcode_table.json, numbered as the table numbers them. -/
theorem test_table_words :
    decodeTableWord 8 1 = some (.parseS 0) ∧ decodeTableWord 8 0xBC = some .sidPsm ∧
    decodeTableWord 8 0x12 = some .pPtsPfx ∧ decodeTableWord 8 0x80 = some (.pdfPts 0) := by decide

/-! ## The Bit Reader (95_test_vectors.md section 2) -/

/-- A reader over a range at a position. -/
def reader (bytes : List Byte) (pos : Nat) : State := { idleWith bytes with len := bytes.length, pos := pos }

/-- The output and POS after an instruction. -/
def outPos (i : Instr) (s : State) : Output × Nat := ((after (exec i s)).out, (after (exec i s)).pos)

theorem test_read_bits :
    outPos (.readBits 8) (reader [0xA5, 0x3C] 4) = (.bits 0x53, 12) ∧                            -- B1
    outPos (.readBits 16) (reader [0xA5, 0x3C] 0) = (.bits 0xA53C, 16) ∧                         -- B3
    outPos (.readBits 3) (reader [0xA5, 0x3C] 13) = (.bits 4, 16) ∧                              -- B4
    outPos (.readBits 7) (reader [0xA5, 0x3C] 1) = (.bits 0x25, 8) ∧                             -- B7
    outPos (.readBits 2) (reader [0xA5, 0x3C] 7) = (.bits 2, 9) ∧                                -- B8
    outPos (.readBits 24) (reader [0, 0, 1] 0) = (.bits 1, 24) ∧                                 -- B9
    outPos (.readBits 32) (reader [0xFF, 0xFF, 0xFF, 0xFF] 0) = (.bits 0xFFFFFFFF, 32) := by decide  -- B11

theorem test_read_bits_stops :
    (after (exec (.readBits 4) (reader [0xA5, 0x3C] 13))).pos = 13 ∧                             -- B5
    (after (exec (.readBits 4) (reader [0xA5, 0x3C] 13))).status.cause = .shortField ∧
    (after (exec (.readBits 24) (reader [0, 0] 0))).endPos = 0 ∧                                 -- B10
    exec (.readBits 0) (reader [0xA5] 0) = .refused (.readerWidth 0) ∧                           -- B12
    exec (.readBits 33) (reader [0xA5] 0) = .refused (.readerWidth 33) :=                        -- B13
  ⟨by decide, by decide, by decide, rfl, rfl⟩

theorem test_read_bit :
    outPos .readBit (reader [0xA5, 0x3C] 0) = (.bit true, 1) ∧                                   -- B2
    outPos .readBit (reader [0xA5] 1) = (.bit false, 2) ∧                                        -- B21
    (after (exec .readBit (reader [0xA5, 0x3C] 16))).status.cause = .shortField := by decide     -- B6

theorem test_bytes_left_current :
    outPos .bytesLeft { State.reset with len := 14, pos := 112 } = (.count 0, 112) ∧             -- B14
    outPos .bytesLeft { State.reset with len := 20, pos := 112 } = (.count 6, 112) ∧             -- B15
    outPos .bytesLeft { State.reset with len := 2, pos := 4 } = (.count 1, 4) ∧                  -- B16
    outPos .current { State.reset with len := 9, pos := 48 } = (.count 6, 48) ∧                  -- B18
    outPos .current { State.reset with len := 14, pos := 112 } = (.count 14, 112) ∧              -- B19
    exec .current { State.reset with len := 2, pos := 4 } = .fault .notByteAligned :=            -- B20
  ⟨by decide, by decide, by decide, by decide, by decide, rfl⟩

/-! ## The classifier (95_test_vectors.md section 3) -/

/-- K1 to K20: the outputs A, V, P, H and the class. -/
def classVectors : List (Byte × Output) :=
  [(0x00, .classified false false false true .other), (0xBB, .classified false false false true .other),
   (0xBC, .classified false false false false .psm), (0xBD, .classified false false false true .other),
   (0xBE, .classified false false true false .padding), (0xBF, .classified false false false false .priv2),
   (0xC0, .classified true false false true .audio), (0xC5, .classified true false false true .audio),
   (0xDF, .classified true false false true .audio), (0xE0, .classified false true false true .video),
   (0xEF, .classified false true false true .video), (0xF0, .classified false false false false .ecm),
   (0xF1, .classified false false false false .emm), (0xF2, .classified false false false false .dsmcc),
   (0xF3, .classified false false false true .other), (0xF7, .classified false false false true .other),
   (0xF8, .classified false false false false .h2221e), (0xF9, .classified false false false true .other),
   (0xFE, .classified false false false true .other), (0xFF, .classified false false false false .psd)]

theorem test_classify :
    classVectors.all (fun r => decide ((after (exec (.classify r.1) State.reset)).out = r.2)) = true := by decide

theorem test_predicates :
    (after (exec (.isAudioStream 0xC5) State.reset)).out = .bit true ∧
    (after (exec (.isVideoStream 0xDF) State.reset)).out = .bit false ∧
    (after (exec (.isPaddingStream 0xBE) State.reset)).out = .bit true ∧
    (after (exec (.hasOptionalHeader 0xBC) State.reset)).out = .bit false := by decide

theorem test_stream_id_rows :
    (after (exec .sidPadding State.reset)).phase = 0x21 ∧ (after (exec .sidPsm State.reset)).phase = 0x21 ∧
    (after (exec (.sidVideo 0) State.reset)).phase = 0x04 ∧ (after (exec (.sidOther 0) State.reset)).phase = 0x04 := by
  decide

/-! ## Commands and host ports (95_test_vectors.md section 4) -/

theorem test_command_accepted :                                                                   -- C1, C6
    let s := after (exec (.parseS 21) (idleWith pktA));
    s.status = { Status.zero with busy := true } ∧ s.phase = 0x01 ∧ s.pos = 0 ∧ s.cmdStart = true ∧ s.len = 21 ∧
    s.faultReg.word = 0 ∧ (after (exec (.parseC 0) State.reset)).phase = 0x21 := by decide

theorem test_command_ignored :                                                                    -- C2, C4, C5
    (after (exec (.parseS 9) (parsingA 0x01 0))).faultReg.word = 1 ∧
    (after (exec (.parseS 9) (parsingA 0x01 0))).len = 21 ∧
    (after (exec (.parseS 257) State.reset)).faultReg.word = 2 ∧
    (after (exec (.parseC 257) (parsingA 0x01 0))).faultReg.word = 1 := by decide

theorem test_in_write :                                                                           -- C3, C7
    (after (exec (.inWrite 0 0xFF) (parsingA 0x01 0))).faultReg.word = 4 ∧
    Memory.read (after (exec (.inWrite 0 0xFF) (parsingA 0x01 0))).inBuf 0 = .val 0x00 ∧
    (after (exec (.inWrite 20 0xCC) (idleWith pktA))).inBuf = memOf (pktA.set 20 0xCC) ∧
    exec (.inWrite 300 0) State.reset = .fault (.hostProtocolInAddr 300) :=
  ⟨by decide, by decide, by decide, rfl⟩

theorem test_reg_read :                                                                           -- P1, P3
    (after (exec (.regRead 0x00) (after (exec .pCommit committing)))).out = .register 0x2BF2 ∧
    (after (exec (.regRead 0x0E) (after (exec .pCommit committing)))).out = .register 0x123456789 ∧
    exec (.regRead 0x09) (parsingA 0x01 0) = .fault (.readPoison .hdrStreamId) ∧
    (after (exec (.regRead 0x10) committing)).out = .register 0 :=
  ⟨by decide, by decide, rfl, by decide⟩

theorem test_reset : after (exec .reset committing) = State.reset := by decide

/-! ## Timestamp bytes (95_test_vectors.md section 5) -/

theorem test_timestamp_bytes :
    timestampBytes 0b0010 0x15 = [0x21, 0x00, 0x01, 0x00, 0x2B] ∧                                 -- T1
    timestampBytes 0b0010 0x1FFFFFFFF = [0x2F, 0xFF, 0xFF, 0xFF, 0xFF] ∧                          -- T3
    timestampBytes 0b0011 0x123456789 = [0x39, 0x8D, 0x15, 0xCF, 0x13] ∧                          -- T4
    timestampBytes 0b0001 0x123450000 = [0x19, 0x8D, 0x15, 0x00, 0x01] := by decide               -- T5

theorem test_builders :                                                                           -- P1
    fixedPartBytes 0xE0 15 ++ flagClusterBytes 0 0 1 0 0 0b11 0 10 ++ ptsDtsBytes 0x123456789 0x123450000 ++
      [0xAA, 0xBB] = pktA := by decide

/-! ## The phases on PKT-A (42_header_parser.md, 43_payload_result.md, the examples of each rule) -/

/-- PKT-A's parse in a phase with nothing in the working header but what a path needs. -/
def freshA (phase : BitVec 6) (pos : Nat) : State :=
  { parsingA phase pos with wk := { Wk.poison with streamId := .val 0xE0, ptsDtsFlags := .val 0b11 } }

/-- The working header an instruction leaves. -/
def wkAfter (i : Instr) (phase : BitVec 6) (pos : Nat) : Wk := (after (exec i (freshA phase pos))).wk

theorem test_fixed_part :
    (wkAfter .pStart 0x01 0).startCode = .val 0x000001 ∧ (wkAfter .pSid 0x02 24).streamId = .val 0xE0 ∧
    (wkAfter .pLen 0x03 32).packetLength = .val 0x000F ∧ (wkAfter .pFixed 0x04 48).fixed = .val 0b10 ∧
    (wkAfter .pScr 0x05 50).scrambling = .val 0 ∧ (wkAfter .pPri 0x06 52).priority = .val 0 ∧
    (wkAfter .pDai 0x07 53).dai = .val 1 ∧ (wkAfter .pCpy 0x08 54).copyright = .val 0 ∧
    (wkAfter .pOoc 0x09 55).original = .val 0 := by decide

theorem test_flags_byte :
    (wkAfter .pPdf 0x0A 56).ptsDtsFlags = .val 0b11 ∧ (wkAfter .pEscrf 0x0B 58).escrFlag = .val 0 ∧
    (wkAfter .pEsrf 0x0C 59).esRateFlag = .val 0 ∧ (wkAfter .pDsmf 0x0D 60).dsmTrickFlag = .val 0 ∧
    (wkAfter .pAcif 0x0E 61).aciFlag = .val 0 ∧ (wkAfter .pCrcf 0x0F 62).crcFlag = .val 0 ∧
    (wkAfter .pExtf 0x10 63).extFlag = .val 0 ∧ (wkAfter .pHdl 0x11 64).hdl = .val 0x0A := by decide

theorem test_timestamps :
    (wkAfter .pPtsHi 0x13 76).ptsHi = .val 4 ∧ (wkAfter .pPtsMid 0x15 80).ptsMid = .val 0x468A ∧
    (wkAfter .pPtsLo 0x17 96).ptsLo = .val 0x6789 ∧ (wkAfter .pDtsHi 0x1A 116).dtsHi = .val 4 ∧
    (wkAfter .pDtsMid 0x1C 120).dtsMid = .val 0x468A ∧ (wkAfter .pDtsLo 0x1E 136).dtsLo = .val 0 ∧
    (after (exec .pPtsM2 { parsingA 0x18 111 with wk := { wkA with pts := .poison } })).wk.pts = .val 0x123456789 ∧
    (after (exec .pDtsM2 { parsingA 0x1F 151 with wk := { wkA with dts := .poison } })).wk.dts = .val 0x123450000 := by
  decide

/-- A phase of PKT-A: the instruction, PHASE and POS before it, PHASE and POS after it. -/
structure Edge where
  i : Instr
  phase : BitVec 6
  pos : Nat
  phase' : BitVec 6
  pos' : Nat

/-- Where each phase of PKT-A goes and leaves POS, up to the header-data-length. -/
def edges1 : List Edge :=
  [⟨.pStart, 0x01, 0, 0x02, 24⟩, ⟨.pSid, 0x02, 24, 0x03, 32⟩, ⟨.pLen, 0x03, 32, 0x04, 48⟩,
   ⟨.pFixed, 0x04, 48, 0x05, 50⟩, ⟨.pScr, 0x05, 50, 0x06, 52⟩, ⟨.pPri, 0x06, 52, 0x07, 53⟩,
   ⟨.pDai, 0x07, 53, 0x08, 54⟩, ⟨.pCpy, 0x08, 54, 0x09, 55⟩, ⟨.pOoc, 0x09, 55, 0x0A, 56⟩,
   ⟨.pPdf, 0x0A, 56, 0x0B, 58⟩, ⟨.pEscrf, 0x0B, 58, 0x0C, 59⟩, ⟨.pEsrf, 0x0C, 59, 0x0D, 60⟩,
   ⟨.pDsmf, 0x0D, 60, 0x0E, 61⟩, ⟨.pAcif, 0x0E, 61, 0x0F, 62⟩, ⟨.pCrcf, 0x0F, 62, 0x10, 63⟩,
   ⟨.pExtf, 0x10, 63, 0x11, 64⟩, ⟨.pHdl, 0x11, 64, 0x12, 72⟩]

/-- Where each phase of PKT-A goes and leaves POS, from the PTS on. -/
def edges2 : List Edge :=
  [⟨.pPtsPfx, 0x12, 72, 0x13, 76⟩, ⟨.pPtsHi, 0x13, 76, 0x14, 79⟩, ⟨.pPtsM0, 0x14, 79, 0x15, 80⟩,
   ⟨.pPtsMid, 0x15, 80, 0x16, 95⟩, ⟨.pPtsM1, 0x16, 95, 0x17, 96⟩, ⟨.pPtsLo, 0x17, 96, 0x18, 111⟩,
   ⟨.pPtsM2, 0x18, 111, 0x19, 112⟩, ⟨.pDtsPfx, 0x19, 112, 0x1A, 116⟩, ⟨.pDtsHi, 0x1A, 116, 0x1B, 119⟩,
   ⟨.pDtsM0, 0x1B, 119, 0x1C, 120⟩, ⟨.pDtsMid, 0x1C, 120, 0x1D, 135⟩, ⟨.pDtsM1, 0x1D, 135, 0x1E, 136⟩,
   ⟨.pDtsLo, 0x1E, 136, 0x1F, 151⟩, ⟨.pDtsM2, 0x1F, 151, 0x20, 152⟩, ⟨.pExtchk, 0x20, 152, 0x21, 152⟩,
   ⟨.pPayloadFwd, 0x21, 152, 0x22, 168⟩, ⟨.pCommit, 0x22, 168, 0x00, 168⟩]

/-- Whether a phase goes along an edge. -/
def Edge.holds (e : Edge) : Bool :=
  let t := after (exec e.i (parsingA e.phase e.pos));
  decide (t.phase = e.phase' ∧ t.pos = e.pos')

theorem test_successors : edges1.all Edge.holds = true ∧ edges2.all Edge.holds = true := by decide

theorem test_payload_and_commit :                                                                 -- V20, P1
    (after (exec .pPayloadFwd (parsingA 0x21 152))).sinkLog = [[0xAA, 0xBB]] ∧
    (after (exec .pCommit committing)).status.word = 0x2BF2 ∧
    (after (exec .pCommit committing)).hdr =
      { startCode := .val 1, streamId := .val 0xE0, packetLength := .val 15, flags1 := .val 0x84,
        flags2 := .val 0xC0, hdl := .val 0x0A, pts := .val 0x123456789, dts := .val 0x123450000 } := by decide

/-! ## Failures (95_test_vectors.md section 6), each at the step that fails -/

/-- A packet's parse at the phase that ends it: STATUS and END_POS. -/
def endsWith (c : Config) (bytes : List Byte) (i : Instr) (phase : BitVec 6) (pos : Nat) (w : Wk) : BitVec 32 × Nat :=
  let t := after (exec i { parsing bytes phase pos w with cfg := c });
  (t.status.word, t.endPos)

/-- The parameters with `FORBIDDEN_POLICY = LateVerdict`. -/
def lateConfig : Config := { Config.standard with forbiddenPolicy := .lateVerdict }

theorem test_failures_fixed_part :
    endsWith Config.standard [0x00, 0x00, 0x02, 0xE0, 0x00, 0x00] .pStart 0x01 0 Wk.poison = (0x00110006, 24) ∧  -- V3
    endsWith Config.standard [0x05, 0x06] .pStart 0x01 0 Wk.poison = (0x0019000E, 0) ∧                         -- V6
    endsWith Config.standard [0x00, 0x00, 0x01, 0xE0, 0x00] .pLen 0x03 32 Wk.poison = (0x0039000E, 32) ∧        -- V8
    endsWith Config.standard [0x00, 0x00, 0x01, 0xE0, 0x00, 0x03, 0x40, 0x00, 0x00] .pFixed 0x04 48 Wk.poison =
      (0x00420006, 50) := by decide                                                                            -- V17

theorem test_forbidden_flags :                                                                    -- V19, V22
    endsWith Config.standard [0x00, 0x00, 0x01, 0xE0, 0x00, 0x05, 0x80, 0x40, 0x00, 0xAA, 0xBB] .pPdf 0x0A 56
      Wk.poison = (0x00A30006, 58) ∧
    (after (exec .pPdf { parsing [0, 0, 1, 0xE0, 0, 5, 0x80, 0x40] 0x0A 56 Wk.poison with cfg := lateConfig })).phase =
      0x0B ∧
    endsWith lateConfig [] .pCommit 0x22 88 { wkA with ptsDtsFlags := .val 0b01 } = (0x02230006, 88) := by decide

theorem test_failures_timestamps :
    endsWith Config.standard (pktA.set 9 0x29) .pPtsPfx 0x12 72 wkA = (0x01240006, 76) ∧          -- V28
    endsWith Config.standard (pktA.set 9 0x38) .pPtsM0 0x14 79 wkA = (0x01450006, 80) ∧           -- V29
    endsWith Config.standard (pktA.set 11 0x14) .pPtsM1 0x16 95 wkA = (0x01650006, 96) ∧          -- V30
    endsWith Config.standard (pktA.set 13 0x12) .pPtsM2 0x18 111 wkA = (0x01850006, 112) ∧        -- V32
    endsWith Config.standard (pktA.take 12) .pPtsLo 0x17 96 wkA = (0x0179000E, 96) := by decide   -- V45

theorem test_failures_dts :
    endsWith Config.standard (pktA.set 14 0x29) .pDtsPfx 0x19 112 wkA = (0x01960006, 116) ∧       -- V33
    endsWith Config.standard (pktA.set 14 0x18) .pDtsM0 0x1B 119 wkA = (0x01B70006, 120) ∧        -- V34
    endsWith Config.standard (pktA.set 16 0x14) .pDtsM1 0x1D 135 wkA = (0x01D70006, 136) ∧        -- V35
    endsWith Config.standard (pktA.set 18 0x00) .pDtsM2 0x1F 151 wkA = (0x01F70006, 152) := by decide  -- V36

theorem test_extension_flags :                                                                    -- V37, V42
    endsWith Config.standard pktA .pExtchk 0x20 152 { wkA with escrFlag := .val 1 } = (0x0208000A, 152) ∧
    endsWith Config.standard pktA .pExtchk 0x20 152 { wkA with extFlag := .val 1 } = (0x0208000A, 152) := by decide

/-- The working header of a padding packet with a packet length. -/
def wkPad (n : BitVec 16) : Wk :=
  { Wk.poison with startCode := .val 1, streamId := .val 0xBE, packetLength := .val n }

/-- The bytes of V11 to V14's kind. -/
def padBytes : List Byte := [0x00, 0x00, 0x01, 0xBE, 0x00, 0x04, 0xFF, 0xFF, 0xFF, 0xFF]

theorem test_padding :                                                                            -- V11, V12
    (after (exec .pPayloadPad (parsing padBytes 0x21 48 (wkPad 4)))).consumed = .val 4 ∧
    (after (exec .pPayloadPad (parsing padBytes 0x21 48 (wkPad 4)))).pos = 80 ∧
    endsWith Config.standard padBytes .pPayloadPad 0x21 48 (wkPad 5) = (0x021A000E, 48) := by decide

theorem test_reserved_phase :
    exec (.phaseReserved 0x23) State.reset = .fault (.badPhase 0x23) ∧
    step { State.reset with phase := 0x3F } = .fault (.badPhase 0x3F) := ⟨rfl, rfl⟩

theorem test_unwritten :
    exec .pSid { parsing [] 0x02 24 Wk.poison with len := 4 } = .fault (.inUnwritten 3) ∧
    exec .pPayloadFwd { parsing [0x11] 0x21 0 Wk.poison with len := 3 } = .fault (.inUnwritten 1) := ⟨rfl, rfl⟩

theorem test_step_runs_turns :
    (after (step { State.reset with turns := [.host ⟨.command, [0x01, 0x15, 0x00]⟩] })).len = 21 ∧
    step { State.reset with turns := [.host ⟨.reader, [0]⟩] } = .refused (.notHostPort .reader) ∧
    (after (step { parsing padBytes 0x21 48 (wkPad 4) with turns := [.pesp, .pesp] })).turns = [.pesp] ∧
    (after (step (parsing padBytes 0x21 48 (wkPad 4)))).sinkLog = [] :=
  ⟨by decide, rfl, by decide, by decide⟩

/-! ## Runs and programs -/

/-- The parameters with MAX_LEN = 255, so that LW = 8. -/
def byteConfig : Config := { Config.standard with maxLen := 255 }

/-- No line of a program turns into another: `IN 256: FF` is the model fault of R61, `PARSE.S 256` is no command of
R80. -/
theorem test_operands_keep_their_bits :
    let s : State := { State.reset with cfg := byteConfig };
    step (s.load [.inBytes 256 [0xFF]]) = .fault (.hostProtocolInAddr 256) ∧
    step (s.load [.parseS 256]) = .refused (.undecodable .wrongLength) ∧
    (after (step (s.load [.parseS 255]))).len = 255 := ⟨rfl, rfl, by decide⟩

/-- The two bytes of the second range of P2, accepted as a continuation after an earlier event. -/
def secondRange : State := accept false 2 { idleWith [0xBB, 0xCC] with sinkLog := [[0xAA]] }

/-- The end and the observation of the second run of P2. -/
theorem test_observation :
    secondRange.commandDone = false ∧ (after (core.run 1 secondRange)).commandDone = false ∧
    (after (core.run 2 secondRange)).commandDone = true ∧
    secondRange.observeSince (after (core.run 2 secondRange)) =
      { status := 0x212
        registers := [(0, 0x212), (1, 0), (2, 0), (3, 2), (4, 16), (5, 2), (6, 0), (7, 2)]
        event := some [0xBB, 0xCC] } := by decide

/-- A command pending with PESP's turns, and after DONE = 1 a write that R294 (d) allows. -/
def launchAndWrite : State :=
  { idleWith [0xBB, 0xCC] with turns := [.host ⟨.command, [0, 2, 0]⟩, .pesp, .pesp, .host ⟨.inWrite, [0, 0, 0]⟩] }

theorem test_clean_while_pending : launchAndWrite.clean 2 := by
  refine ⟨rfl, ⟨rfl, rfl⟩, ⟨by decide, Memory.written_of_range (bs := [0xBB, 0xCC]) (by decide)⟩, ?_⟩
  intro start hs k u hu hb x hx
  cases start with
  | true => exact absurd rfl hs
  | false =>
    match k with
    | 0 => cases hu; cases hx; rfl
    | 1 => cases hu; cases hx; rfl
    | k + 2 => exact absurd (hb 2 _ (by omega) rfl) (by decide)

/-- A write between the command and DONE = 1 (P4) breaks the premise. -/
theorem test_not_clean :
    ¬{ idleWith [0xBB, 0xCC] with turns := [.host ⟨.command, [0, 2, 0]⟩, .host ⟨.inWrite, [0, 0, 0]⟩] }.clean 2 := by
  rintro ⟨-, -, -, h⟩
  have := h false (by decide) 0 _ rfl (fun j v hj hv => by cases Nat.le_zero.1 hj; cases hv; rfl) _ rfl
  exact absurd this (by decide)

/-! ## Witnesses: for each statement with hypotheses, states and operands that meet them, clause by clause -/

/-- A range of nine bytes that ends at the header-data-length, a video header with the flags 0b00 (V15). -/
def shortVideo : List Byte := [0x00, 0x00, 0x01, 0xE0, 0x00, 0x03, 0x80, 0x00, 0x00]

/-- PKT-A with DONE = 1: the state its P_COMMIT leaves. -/
def doneA : State := after (exec .pCommit committing)

theorem inv_doneA : doneA.Inv :=
  inv_idle rfl (by decide) (by decide) (by decide) (by decide) (by decide) (by decide) rfl

theorem inv_start : (accept true 21 (idleWith pktA)).Inv :=
  ⟨rfl, by decide, by decide, by decide, by decide, by decide, by decide,
   progress_start rfl (by decide) (by decide) (by decide) (by decide)⟩

theorem inv_extchk : (parsingA 0x20 152).Inv :=
  ⟨rfl, by decide, by decide, by decide, by decide, by decide, by decide,
   progress_start rfl (by decide) (by decide) (by decide) (by decide)⟩

theorem inv_payload : (parsingA 0x21 152).Inv :=
  ⟨rfl, by decide, by decide, by decide, by decide, by decide, by decide,
   progress_start rfl (by decide) (by decide) (by decide) (by decide)⟩

theorem wit_EncodeDecodeAgree : decode Config.standard ⟨.command, [0x01, 0xFF, 0x01]⟩ = .ok (.parseS 511) := by decide

theorem wit_StepRunsThePortWord :
    (Port.command.isHost = true ∧ decode Config.standard ⟨.command, [1, 0, 1]⟩ = .ok (.parseS 256)) ∧
    (Port.reader.isUnit = true ∧ decode Config.standard ⟨.reader, [3]⟩ = .ok .current) ∧ Port.phase.isHost = false := by
  decide

theorem wit_StepRunsThePhase :
    (State.reset.pespTurn = true ∧ (0x22, Instr.pCommit) ∈ phaseRows ∧ committing.phase = 0x22) ∧
    ((accept false 0 State.reset).phase = 0x21 ∧ (accept false 0 State.reset).cmdStart = false) ∧
    (parsing padBytes 0x21 48 (wkPad 4)).wk.streamId = .val Config.standard.streamIds.paddingStream ∧
    (parsingA 0x21 152).wk.streamId = .val 0xE0 ∧ (parsingA 0x21 152).cmdStart = true := by decide

theorem wit_CommandAcceptance :
    committing.status.busy = true ∧ State.reset.status.busy = false ∧ State.reset.cfg.maxLen < 257 ∧
    256 ≤ State.reset.cfg.maxLen := by decide

theorem wit_InWriteStoresOneByte :
    255 < State.reset.cfg.maxLen ∧ State.reset.status.busy = false ∧ committing.status.busy = true ∧
    State.reset.cfg.maxLen ≤ 256 := by decide

theorem wit_InWriteOutOfRangeWhileBusy : committing.cfg.maxLen ≤ 256 ∧ committing.status.busy = true := by decide

theorem wit_RegReadReturnsTheRegister :
    (doneA.status.busy = false ∧ doneA.consumed = .val 2 ∧ doneA.feedOffset = .val 19 ∧ doneA.feedLen = .val 2) ∧
    State.reset.feedOffset = .poison ∧ State.reset.feedLen = .poison ∧
    (endParse .truncated .shortField 1 false (accept true 0 State.reset)).consumed = .poison ∧
    doneA.hdr.dts = .val 0x123450000 ∧ State.reset.hdr.dts = .poison ∧ 0x10 ≤ (0x10 : BitVec 8).toNat := by decide

theorem wit_ResultsPoisonWhileBusy :
    (parsingA 0x17 96).Inv ∧ (parsingA 0x17 96).status.busy = true ∧ committing.Inv ∧ committing.status.busy = true :=
  ⟨inv_parsing_pts_lo, rfl, inv_committing, rfl⟩

theorem wit_StatusWordLayout : committing.status.done = false ∧ doneA.status.done = true := by decide

theorem wit_FaultIsSticky :
    ∃ t, step { doneA with faultReg := ⟨true, true, true⟩ } = .next t ∧ doneA.turns.head? ≠ some resetTurn :=
  ⟨_, rfl, by decide⟩

theorem wit_StreamIdRowsAgreeWithPLen :
    Config.standard.wf = true ∧ (parsingA 0x03 32).wk.streamId = .val 0xE0 ∧
    decode Config.standard ⟨.streamId, [0xE0]⟩ = .ok (.sidVideo 0) ∧
    (∃ t, exec (.sidVideo 0) (parsingA 0x03 32) = .next t) ∧ (parsingA 0x03 32).readable 16 ∧
    ∃ u, exec .pLen (parsingA 0x03 32) = .next u :=
  ⟨rfl, rfl, by decide, ⟨_, rfl⟩, readable_of_readBits (v := 15) rfl, ⟨_, rfl⟩⟩

theorem wit_PtsDtsFlagsRows :
    lateConfig.forbiddenPolicy = .lateVerdict ∧ Config.standard.forbiddenPolicy = .failFast := by decide

theorem wit_ResetObservation : ∃ t, exec .reset committing = .next t := ⟨_, rfl⟩

theorem wit_ReadBitsReadsTheField :
    (reader [0, 0, 1] 0).readable 24 ∧                                        -- ends at the end of the range
    ((reader [0, 0] 0).shortBy 24 ∧ 24 ≤ (reader [0, 0] 0).cfg.readWidth) ∧
    ((reader [] 0).shortBy 1 ∧ ¬({ reader [0xFF] 4 with len := 2 } : State).readable 8 ∧
      ({ reader [0xFF] 4 with len := 2 } : State).pos + 8 ≤ 16) ∧
    (reader [] 0).cfg.readWidth < 33 :=
  ⟨readable_of_readBits (v := 1) rfl, by decide,
   ⟨by decide, not_readable_of_readBits (a := 1) rfl, by decide⟩, by decide⟩

theorem wit_ReadBitReadsOneBit :
    1 ≤ (reader [0xA5] 7).cfg.readWidth ∧
    (Memory.read (reader [0xA5] 7).inBuf 0 = .val 0xA5 ∧ (reader [0xA5] 7).pos < 8 * (reader [0xA5] 7).len) ∧
    ((reader [0xA5] 8).shortBy 1 ∧ Memory.read (reader [0xA5] 8).inBuf 1 = .poison) ∧     -- at the end of the range
    (({ reader [0xA5] 8 with len := 2 } : State).pos < 16 ∧
      Memory.read ({ reader [0xA5] 8 with len := 2 } : State).inBuf 1 = .poison) := by decide

theorem wit_BytesLeftAndCurrent : (reader [0xA5] 8).pos % 8 = 0 ∧ (reader [0xA5] 7).pos % 8 ≠ 0 := by decide

theorem wit_FieldsAreBigEndian :
    24 ≤ Config.standard.readWidth ∧ 6 ≤ (reader pktA 0).len ∧ Memory.read (reader pktA 0).inBuf 0 = .val 0 ∧
    Memory.read (reader pktA 0).inBuf 1 = .val 0 ∧ Memory.read (reader pktA 0).inBuf 2 = .val 1 ∧
    Memory.read (reader pktA 0).inBuf 4 = .val 0 ∧ Memory.read (reader pktA 0).inBuf 5 = .val 0x0F := by decide

/-- The fields of the phases can be read where PKT-A has them, and do not fit at the end of a cut range. -/
theorem wit_FixedPatternsChecked :
    (parsingA 0x01 0).readable 24 ∧ (parsingA 0x04 48).readable 2 ∧
    (parsing [0, 0] 0x01 0 Wk.poison).shortBy 24 ∧ (parsing (pktA.take 6) 0x04 48 wkA).shortBy 2 :=
  ⟨readable_of_readBits (v := 1) rfl, readable_of_readBits (v := 2) rfl, by decide, by decide⟩

theorem wit_HeaderFieldsRecorded :
    (parsingA 0x02 24).readable 8 ∧ (parsingA 0x05 50).readable 2 ∧ (parsingA 0x06 52).readable 1 ∧
    (parsingA 0x07 53).readable 1 ∧ (parsingA 0x10 63).readable 1 ∧
    (parsing (pktA.take 3) 0x02 24 wkA).shortBy 8 ∧ (parsing (pktA.take 6) 0x05 48 wkA).shortBy 2 ∧
    (parsing (pktA.take 7) 0x0B 56 wkA).shortBy 1 :=
  ⟨readable_of_readBits (v := 0xE0) rfl, readable_of_readBits (v := 0) rfl, readable_of_readBits (v := 0) rfl,
   readable_of_readBits (v := 1) rfl, readable_of_readBits (v := 0) rfl, by decide, by decide, by decide⟩

theorem wit_PathChoices :
    (parsingA 0x03 32).readable 16 ∧ (parsingA 0x03 32).wk.streamId = .val 0xE0 ∧
    (parsing padBytes 0x03 32 (wkPad 0)).readable 16 ∧ (parsingA 0x11 64).readable 8 ∧
    (parsingA 0x11 64).wk.ptsDtsFlags = .val 0b11 ∧ (parsing (pktA.take 5) 0x03 32 wkA).shortBy 16 ∧
    (parsing (pktA.take 8) 0x11 64 wkA).shortBy 8 :=
  ⟨readable_of_readBits (v := 15) rfl, rfl, readable_of_readBits (v := 4) rfl, readable_of_readBits (v := 10) rfl, rfl,
   by decide, by decide⟩

/-- A start parse under LateVerdict that holds the forbidden flags, in P_EXTCHK. -/
def forbiddenLate : State :=
  { parsing [0x00, 0x00, 0x01, 0xE0, 0x00, 0x03, 0x80, 0x40, 0x00] 0x20 72 { wkA with ptsDtsFlags := .val 0b01 } with
    cfg := lateConfig }

theorem wit_ForbiddenFlags :
    (parsingA 0x0A 56).readable 2 ∧ (parsing (pktA.take 7) 0x0A 56 wkA).shortBy 2 ∧ forbiddenLate.Inv ∧
    forbiddenLate.pespTurn = true ∧ forbiddenLate.cmdStart = true ∧ 0x0A < forbiddenLate.phase.toNat ∧
    forbiddenLate.wkHasOpt = true ∧ forbiddenLate.wk.ptsDtsFlags = .val 0b01 ∧ ∃ t, step forbiddenLate = .next t :=
  ⟨readable_of_readBits (v := 3) rfl, by decide,
   ⟨rfl, by decide, by decide, by decide, by decide, by decide, by decide,
    progress_start rfl (by decide) (by decide) (by decide) (by decide)⟩,
   rfl, rfl, by decide, by decide, rfl, ⟨_, rfl⟩⟩

theorem wit_PrefixesChecked :
    (parsingA 0x12 72).readable 4 ∧ (parsingA 0x12 72).wk.ptsDtsFlags = .val 0b11 ∧ (parsingA 0x19 112).readable 4 ∧
    (parsing (pktA.take 9) 0x12 72 wkA).shortBy 4 ∧ (parsing (pktA.take 14) 0x19 112 wkA).shortBy 4 :=
  ⟨readable_of_readBits (v := 3) rfl, rfl, readable_of_readBits (v := 1) rfl, by decide, by decide⟩

theorem wit_TimestampSegmentsRecorded :
    (parsingA 0x13 76).readable 3 ∧ (parsingA 0x15 80).readable 15 ∧ (parsingA 0x17 96).readable 15 ∧
    (parsingA 0x1A 116).readable 3 ∧ (parsingA 0x1C 120).readable 15 ∧ (parsingA 0x1E 136).readable 15 ∧
    (parsing (pktA.take 11) 0x15 80 wkA).shortBy 15 ∧ (parsing (pktA.take 9) 0x13 72 wkA).shortBy 3 :=
  ⟨readable_of_readBits (v := 4) rfl, readable_of_readBits (v := 0x468A) rfl, readable_of_readBits (v := 0x6789) rfl,
   readable_of_readBits (v := 4) rfl, readable_of_readBits (v := 0x468A) rfl, readable_of_readBits (v := 0) rfl,
   by decide, by decide⟩

theorem wit_MarkersChecked :
    (parsingA 0x14 79).readable 1 ∧ (parsingA 0x16 95).readable 1 ∧ (parsingA 0x1B 119).readable 1 ∧
    (parsingA 0x1D 135).readable 1 ∧ (parsing (pktA.take 9) 0x14 72 wkA).shortBy 1 :=
  ⟨readable_of_readBits (v := 1) rfl, readable_of_readBits (v := 1) rfl, readable_of_readBits (v := 1) rfl,
   readable_of_readBits (v := 1) rfl, by decide⟩

theorem wit_TimestampsAssembled :
    (parsingA 0x18 111).readable 1 ∧ (parsingA 0x1F 151).readable 1 ∧
    (wkA.ptsHi = .val 4 ∧ wkA.ptsMid = .val 0x468A ∧ wkA.ptsLo = .val 0x6789 ∧ wkA.ptsDtsFlags = .val 0b11) ∧
    (wkA.dtsHi = .val 4 ∧ wkA.dtsMid = .val 0x468A ∧ wkA.dtsLo = .val 0) ∧
    (parsing (pktA.take 13) 0x18 104 wkA).shortBy 1 :=
  ⟨readable_of_readBits (v := 1) rfl, readable_of_readBits (v := 1) rfl, by decide, by decide, by decide⟩

theorem wit_TimestampRoundTrip :
    Memory.range (memOf pktA) 9 5 = .ok (timestampBytes 0b0011 0x123456789) ∧
    Memory.range (memOf [0x2F, 0xFF, 0xFF, 0xFF, 0xFF]) 0 5 = .ok (timestampBytes 0b0010 0x1FFFFFFFF) := by decide

theorem wit_ExtensionCheck :
    wkA.escrFlag = .val 0 ∧ wkA.esRateFlag = .val 0 ∧ wkA.dsmTrickFlag = .val 0 ∧ wkA.aciFlag = .val 0 ∧
    wkA.crcFlag = .val 0 ∧ wkA.extFlag = .val 0 := by decide

theorem wit_PaddingDiscarded : (parsing padBytes 0x21 48 (wkPad 4)).wk.packetLength = .val 4 := rfl

theorem wit_PayloadForwarded :
    (parsingA 0x21 152).pos % 8 = 0 ∧ Memory.written (parsingA 0x21 152).inBuf 19 2 ∧
    Memory.written (parsing shortVideo 0x21 72 wkA).inBuf 9 0 ∧ ¬Memory.written (parsing [0x11] 0x21 0 wkA).inBuf 0 2 ∧
    (parsingA 0x21 151).pos % 8 ≠ 0 := by
  refine ⟨by decide, Memory.written_of_range (bs := [0xAA, 0xBB]) (by decide),
    Memory.written_of_range (bs := []) (by decide), fun h => ?_, by decide⟩
  obtain ⟨b, hb⟩ := h 1 (by decide) (by decide)
  cases hb

theorem wit_CommitWithoutOptionalHeader :
    (accept false 0 State.reset).cmdStart = false ∧
    ((wkPad 4).startCode = .val 1 ∧ (wkPad 4).streamId = .val 0xBE ∧ (wkPad 4).packetLength = .val 4 ∧
      0xBE ∈ Config.standard.streamIds.noHdr) ∧
    (forbiddenLate.cmdStart = true ∧ forbiddenLate.wk.streamId = .val 0xE0 ∧ 0xE0 ∉ lateConfig.streamIds.noHdr ∧
      forbiddenLate.wk.ptsDtsFlags = .val 0b01) := by decide

theorem wit_CommitWithOptionalHeader :
    committing.cmdStart = true ∧ 0xE0 ∉ committing.cfg.streamIds.noHdr ∧ (0b11 : BitVec 2) ≠ 0b01 ∧
    committing.wk.pts.isVal = true ∧ committing.wk.dts.isVal = true ∧ committing.wk = wkA := by decide

theorem wit_IdleIsLeftOnlyByACommand :
    let s : State := { idleWith pktA with turns := [.host ⟨.command, [0x01, 0x15, 0x00]⟩] };
    s.Inv ∧ s.phase = 0 ∧ ∃ t, step s = .next t ∧ t.phase ≠ 0 :=
  ⟨inv_idle rfl (by decide) (by decide) (by decide) (by decide) (by decide) (by decide) rfl, rfl, ⟨_, rfl, by decide⟩⟩

theorem wit_ReservedPhasesFault :
    ({ State.reset with phase := 0x23 } : State).pespTurn = true ∧ 0x23 ≤ (0x23 : BitVec 6).toNat ∧
    committing.Inv ∧ ∃ t, step committing = .next t := ⟨rfl, by decide, inv_committing, ⟨_, rfl⟩⟩

theorem wit_MemoryFrame :
    (∃ t, exec (.inWrite 0 0xFF) State.reset = .next t) ∧ (1 : Nat) ≠ 0 ∧ (∃ t, step committing = .next t) ∧
    committing.status.busy = true ∧ committing.turns.head? ≠ some resetTurn :=
  ⟨⟨_, rfl⟩, by decide, ⟨_, rfl⟩, rfl, by decide⟩

theorem wit_PhaseFrame :
    (encode Config.standard .pExtchk).port = .phase ∧ (∃ t, exec .pExtchk (parsingA 0x20 152) = .next t) ∧
    (after (exec .pExtchk (parsingA 0x20 152))).phase ≠ 0 := ⟨rfl, ⟨_, rfl⟩, by decide⟩

theorem wit_WkWrittenOnlyByItsPhase :
    (encode Config.standard .pSid).port ≠ .ptsDtsFlags ∧ ∃ t, exec .pSid (parsingA 0x02 24) = .next t :=
  ⟨by decide, ⟨_, rfl⟩⟩

theorem wit_ResetMeetsTheInvariant : Config.standard.wf = true ∧ lateConfig.wf = true := by decide

theorem wit_StepKeepsTheInvariant : committing.Inv ∧ ∃ t, step committing = .next t := ⟨inv_committing, ⟨_, rfl⟩⟩

/-- Each of the three faults and of the two refusals has a state that takes it and meets the invariant. -/
theorem wit_StopsOnlyAsNamed :
    let r : State := { State.reset with turns := [.host ⟨.regRead, [0x06]⟩] };
    let w : State := { State.reset with turns := [.host ⟨.inWrite, [0, 0, 1]⟩] };
    let u : State := accept true 3 State.reset;
    let h : State := { State.reset with turns := [.host ⟨.reader, [0]⟩] };
    let d : State := { State.reset with turns := [.host ⟨.command, []⟩] };
    (r.Inv ∧ step r = .fault (.readPoison .feedOffset)) ∧ (w.Inv ∧ step w = .fault (.hostProtocolInAddr 256)) ∧
    (u.Inv ∧ step u = .fault (.inUnwritten 0)) ∧ (h.Inv ∧ step h = .refused (.notHostPort .reader)) ∧
    (d.Inv ∧ step d = .refused (.undecodable .wrongLength)) :=
  ⟨⟨inv_idle rfl (by decide) (by decide) (by decide) (by decide) (by decide) (by decide) rfl, rfl⟩,
   ⟨inv_idle rfl (by decide) (by decide) (by decide) (by decide) (by decide) (by decide) rfl, rfl⟩,
   ⟨⟨rfl, by decide, by decide, by decide, by decide, by decide, by decide,
     progress_start rfl (by decide) (by decide) (by decide) (by decide)⟩, rfl⟩,
   ⟨inv_idle rfl (by decide) (by decide) (by decide) (by decide) (by decide) (by decide) rfl, rfl⟩,
   ⟨inv_idle rfl (by decide) (by decide) (by decide) (by decide) (by decide) (by decide) rfl, rfl⟩⟩

theorem wit_EveryParseEnds :
    let s := accept true 21 (idleWith pktA);
    s.Inv ∧ s.pespTurn = true ∧ Memory.written s.inBuf 0 s.len ∧ s.phase ≠ 0 ∧ s.turns = [] :=
  ⟨inv_start, rfl, Memory.written_of_range (bs := pktA) (by decide), by decide, rfl⟩

theorem wit_PhasesFollowThePaths :
    (parsingA 0x20 152).Inv ∧ (parsingA 0x20 152).pespTurn = true ∧ (parsingA 0x20 152).phase ≠ 0 ∧
    ∃ t, step (parsingA 0x20 152) = .next t := ⟨inv_extchk, rfl, by decide, ⟨_, rfl⟩⟩

theorem wit_StepCountsPerPath :
    State.reset.turns = [] ∧ ∃ t : State, core.run 1 (accept false 0 State.reset) = .next t ∧ t.phase = 0x22 :=
  ⟨rfl, ⟨_, rfl, by decide⟩⟩

/-- A padding packet, a video packet with the flags 0b00, one with a PTS, and PKT-A stand in P_COMMIT one step before
their count (V11, V15, T1's packet, V20). -/
theorem wit_StepCountsPerPath_start :
    let padding := core.run 4 (accept true 10 (idleWith padBytes));
    let video := core.run 19 (accept true 9 (idleWith shortVideo));
    let ptsOnly := core.run 26 (accept true 14 (idleWith
      [0x00, 0x00, 0x01, 0xE0, 0x00, 0x08, 0x80, 0x80, 0x05, 0x21, 0x00, 0x01, 0x00, 0x2B]));
    let both := core.run 33 (accept true 21 (idleWith pktA));
    ((after padding).phase = 0x22 ∧ (after padding).wkHasOpt = false) ∧
    ((after video).phase = 0x22 ∧ (after video).wkHasOpt = true ∧ (after video).wkFields = .noTimestamp) ∧
    ((after ptsOnly).phase = 0x22 ∧ (after ptsOnly).wkFields = .pts) ∧
    ((after both).phase = 0x22 ∧ (after both).wkFields = .ptsDts) := by decide

theorem wit_RunsComputeParse :
    (idleWith pktA).cfg.wf = true ∧ (idleWith pktA).turns = [] ∧
    (∃ o, parse Config.standard (memOf [0x01, 0, 0]) 3 true = .ok o) ∧
    ∃ a, parse Config.standard [] 3 true = .error a := ⟨rfl, rfl, ⟨_, rfl⟩, ⟨_, rfl⟩⟩

theorem wit_EncodedPacketsParseBack :
    0xE0 ∉ Config.standard.streamIds.noHdr ∧
    (let bytes := fixedPartBytes 0xE0 8 ++ flagClusterBytes 0 0 0 0 0 0b10 0 5 ++ ptsBytes 0x15 ++ [];
      Memory.range (memOf [0x00, 0x00, 0x01, 0xE0, 0x00, 0x08, 0x80, 0x80, 0x05, 0x21, 0x00, 0x01, 0x00, 0x2B]) 0
        bytes.length = .ok bytes) ∧
    (let bytes := fixedPartBytes 0xE0 15 ++ flagClusterBytes 0 0 1 0 0 0b11 0 10 ++
        ptsDtsBytes 0x123456789 0x123450000 ++ [0xAA, 0xBB];
      Memory.range (memOf pktA) 0 bytes.length = .ok bytes) := by decide

theorem wit_ContinuationEndsOk : State.reset.turns = [] ∧ Memory.written (memOf [0x11, 0x22, 0x33]) 0 3 :=
  ⟨rfl, Memory.written_of_range (bs := [0x11, 0x22, 0x33]) (by decide)⟩

theorem wit_TerminationRecords :
    committing.Inv ∧ committing.pespTurn = true ∧ committing.phase ≠ 0 ∧
    ∃ t, step committing = .next t ∧ t.phase = 0 := ⟨inv_committing, rfl, by decide, ⟨_, rfl, by decide⟩⟩

/-- A parse that ends at its first field, one that ends at the extension flags, and one short of padding. -/
theorem wit_FailuresAndTheirPositions :
    let m := accept true 3 (idleWith [0x01, 0x00, 0x00]);
    let x : State := { parsingA 0x20 152 with wk := { wkA with crcFlag := .val 1 } };
    let p := parsing padBytes 0x21 48 (wkPad 5);
    let e := accept true 0 State.reset;
    (m.Inv ∧ m.phase ≠ 0 ∧ ∃ t, step m = .next t ∧ t.phase = 0 ∧ t.status.result = .malformed) ∧
    (x.Inv ∧ ∃ t, step x = .next t ∧ t.phase = 0 ∧ t.status.result = .unsupported) ∧
    (p.Inv ∧ ∃ t, step p = .next t ∧ t.phase = 0 ∧ t.status.cause = .shortPadding) ∧
    (e.Inv ∧ ∃ t, step e = .next t ∧ t.phase = 0 ∧ t.status.cause = .shortField) :=
  ⟨⟨⟨rfl, by decide, by decide, by decide, by decide, by decide, by decide,
      progress_start rfl (by decide) (by decide) (by decide) (by decide)⟩, by decide, ⟨_, rfl, by decide, by decide⟩⟩,
   ⟨⟨rfl, by decide, by decide, by decide, by decide, by decide, by decide,
      progress_start rfl (by decide) (by decide) (by decide) (by decide)⟩, ⟨_, rfl, by decide, by decide⟩⟩,
   ⟨⟨rfl, by decide, by decide, by decide, by decide, by decide, by decide, fun _ =>
      ⟨⟨by decide, fun h => absurd h (by decide)⟩, by decide⟩⟩, ⟨_, rfl, by decide, by decide⟩⟩,
   ⟨⟨rfl, by decide, by decide, by decide, by decide, by decide, by decide,
      progress_start rfl (by decide) (by decide) (by decide) (by decide)⟩, ⟨_, rfl, by decide, by decide⟩⟩⟩

theorem wit_FieldsStandAtTheirOffsets :
    ((parsingA 0x17 96).Inv ∧ (parsingA 0x17 96).cmdStart = true) ∧
    ((parsingA 0x21 152).Inv ∧ (parsingA 0x21 152).cmdStart = true ∧ (parsingA 0x21 152).phase = 0x21) ∧
    ((accept false 3 State.reset).Inv ∧ (accept false 3 State.reset).phase = 0x21) :=
  ⟨⟨inv_parsing_pts_lo, rfl⟩, ⟨inv_payload, rfl, rfl⟩,
   ⟨rfl, by decide, by decide, by decide, by decide, by decide, by decide, fun _ => .inl ⟨rfl, rfl⟩⟩, rfl⟩

theorem wit_RegistersFitTheirWidths : doneA.Inv ∧ doneA.consumed = .val 2 ∧ doneA.feedOffset = .val 19 ∧
    doneA.feedLen = .val 2 := ⟨inv_doneA, by decide, by decide, by decide⟩

theorem wit_AtMostOneEventPerCommand :
    (parsingA 0x21 152).Inv ∧ (∃ t, step (parsingA 0x21 152) = .next t ∧ t.sinkLog = [[0xAA, 0xBB]]) ∧
    (parsingA 0x21 152).turns.head? ≠ some resetTurn ∧ committing.Inv ∧ committing.status.fed = true :=
  ⟨inv_payload, ⟨_, rfl, by decide⟩, by decide, inv_committing, rfl⟩

theorem wit_ResultsHoldUntilTheNextAccept :
    doneA.Inv ∧ doneA.status.done = true ∧ (∃ t, step doneA = .next t) ∧ doneA.turns.head? ≠ some resetTurn :=
  ⟨inv_doneA, by decide, ⟨_, rfl⟩, by decide⟩

theorem wit_ResetAndWritesGiveClean :
    [0x11, (0x22 : Byte)].length ≤ Config.standard.maxLen ∧
    (State.reset.load [.reset, .inBytes 0 [0x11, 0x22]]).turns =
      resetTurn :: inBytesTurns Config.standard 0 [0x11, 0x22] := by decide

theorem wit_HeaderDataLengthIsNotUsed :
    Memory.read (idleWith shortVideo).inBuf 3 = .val 0xE0 ∧ 0xE0 ∉ (idleWith shortVideo).cfg.streamIds.noHdr ∧
    ∃ t : State, core.run 34 (accept true 9 (idleWith shortVideo)) = .next t :=
  ⟨by decide, by decide, ⟨_, rfl⟩⟩

theorem wit_InstancesShareNothing :
    ∃ sys', System.stepInstance [accept false 0 State.reset, State.reset] 0 = some sys' := ⟨_, rfl⟩

theorem wit_DecodeEncodeAgree :
    (Instr.parseS 511).wf Config.standard = true ∧ (Instr.readBits 63).wf Config.standard = true ∧
    (Instr.phaseReserved 0x23).wf Config.standard = true := by decide

end Sys2Proof.Tests
end

section
/-! Instances of a system share nothing (60_exceptions.md R268): what a step of one instance does to the list of
instances, said once, and the frame and commutation facts drawn from it. -/

namespace Sys2Proof.Proofs.Instances
open Sys2Proof.Machine

/-- A system steps at `k` exactly when instance `k` exists and takes a step of its own; only that entry is replaced. -/
theorem stepInstance_eq_some_iff {sys sys' : System} {k : Nat} :
    sys.stepInstance k = some sys' ↔ ∃ s t, sys[k]? = some s ∧ step s = .next t ∧ sys' = sys.set k t := by
  unfold System.stepInstance
  cases sys[k]? with
  | none => simp
  | some s => cases hstep : step s <;> simp [hstep, eq_comm]

theorem stepInstance_length {sys sys' : System} {k : Nat} (h : sys.stepInstance k = some sys') :
    sys'.length = sys.length := by
  obtain ⟨s, t, -, -, rfl⟩ := stepInstance_eq_some_iff.mp h
  exact List.length_set

theorem stepInstance_getElem?_of_ne {sys sys' : System} {j k : Nat} (h : sys.stepInstance k = some sys')
    (hne : j ≠ k) : sys'[j]? = sys[j]? := by
  obtain ⟨s, t, -, -, rfl⟩ := stepInstance_eq_some_iff.mp h
  exact List.getElem?_set_ne hne.symm

theorem stepInstance_getElem?_self {sys sys' : System} {k : Nat} (h : sys.stepInstance k = some sys') :
    ∃ s t, sys[k]? = some s ∧ step s = .next t ∧ sys'[k]? = some t := by
  obtain ⟨s, t, hget, hstep, rfl⟩ := stepInstance_eq_some_iff.mp h
  obtain ⟨hlt, -⟩ := List.getElem?_eq_some_iff.mp hget
  exact ⟨s, t, hget, hstep, List.getElem?_set_self hlt⟩

/-- Two steps of different instances can be taken in the other order: the second instance is the same before the first
step, and the two replaced entries are different ones. -/
theorem stepInstance_swap {sys sys' : System} {j k : Nat} (hne : j ≠ k)
    (h : (sys.stepInstance j).bind (fun u => u.stepInstance k) = some sys') :
    (sys.stepInstance k).bind (fun u => u.stepInstance j) = some sys' := by
  obtain ⟨u, hj, hk⟩ := Option.bind_eq_some_iff.mp h
  have hframe : u[k]? = sys[k]? := stepInstance_getElem?_of_ne hj hne.symm
  obtain ⟨s, t, hgetj, hstepj, rfl⟩ := stepInstance_eq_some_iff.mp hj
  obtain ⟨s', t', hgetk, hstepk, rfl⟩ := stepInstance_eq_some_iff.mp hk
  have hk' : sys.stepInstance k = some (sys.set k t') :=
    stepInstance_eq_some_iff.mpr ⟨s', t', hframe ▸ hgetk, hstepk, rfl⟩
  have hgetj' : (sys.set k t')[j]? = some s := (stepInstance_getElem?_of_ne hk' hne).trans hgetj
  exact Option.bind_eq_some_iff.mpr
    ⟨_, hk', stepInstance_eq_some_iff.mpr ⟨s, t, hgetj', hstepj, List.set_comm t t' hne⟩⟩

/-- Settles O60: the frame of one instance's step, and the exchange of two steps read in both directions. -/
theorem instancesShareNothing : Obligations.InstancesShareNothing := by
  unfold Obligations.InstancesShareNothing
  constructor
  · intro sys sys' k h
    exact ⟨stepInstance_length h, fun j hne => stepInstance_getElem?_of_ne h hne, stepInstance_getElem?_self h⟩
  · intro sys j k hne
    exact Option.ext fun sys' => ⟨stepInstance_swap hne, stepInstance_swap hne.symm⟩

end Sys2Proof.Proofs.Instances
end

section
/-! What each instruction can do, said once: three relations between the state an instruction runs in and the next
state it answers (`PhaseMove`, `HostMove`, `UnitMove`), by the port the instruction's word stands on. Frames, the
invariant and the rules about turns of PESP are read off these relations, and unfold no meaning. -/

namespace Sys2Proof.Proofs.Moves
open Sys2Proof.Machine

/-! ## Phases -/

/-- The PHASE code a phase's word carries in its low six bits (30_encoding.md R96); both branches of P_PAYLOAD carry
0x21. -/
def phaseCode (i : Instr) : BitVec 6 := ((encode Config.standard i).bytes.headD 0).setWidth 6

/-- The working header before and after an instruction: a field differs only if the instruction is the phase that
10_state.md R27 names for it. -/
def WkFrame (i : Instr) (w w' : Wk) : Prop :=
  (i ≠ .pStart → w'.startCode = w.startCode) ∧ (i ≠ .pSid → w'.streamId = w.streamId) ∧
  (i ≠ .pLen → w'.packetLength = w.packetLength) ∧ (i ≠ .pFixed → w'.fixed = w.fixed) ∧
  (i ≠ .pScr → w'.scrambling = w.scrambling) ∧ (i ≠ .pPri → w'.priority = w.priority) ∧
  (i ≠ .pDai → w'.dai = w.dai) ∧ (i ≠ .pCpy → w'.copyright = w.copyright) ∧
  (i ≠ .pOoc → w'.original = w.original) ∧ (i ≠ .pPdf → w'.ptsDtsFlags = w.ptsDtsFlags) ∧
  (i ≠ .pEscrf → w'.escrFlag = w.escrFlag) ∧ (i ≠ .pEsrf → w'.esRateFlag = w.esRateFlag) ∧
  (i ≠ .pDsmf → w'.dsmTrickFlag = w.dsmTrickFlag) ∧ (i ≠ .pAcif → w'.aciFlag = w.aciFlag) ∧
  (i ≠ .pCrcf → w'.crcFlag = w.crcFlag) ∧ (i ≠ .pExtf → w'.extFlag = w.extFlag) ∧
  (i ≠ .pHdl → w'.hdl = w.hdl) ∧ (i ≠ .pPtsHi → w'.ptsHi = w.ptsHi) ∧
  (i ≠ .pPtsMid → w'.ptsMid = w.ptsMid) ∧ (i ≠ .pPtsLo → w'.ptsLo = w.ptsLo) ∧
  (i ≠ .pPtsM2 → w'.pts = w.pts) ∧ (i ≠ .pDtsHi → w'.dtsHi = w.dtsHi) ∧
  (i ≠ .pDtsMid → w'.dtsMid = w.dtsMid) ∧ (i ≠ .pDtsLo → w'.dtsLo = w.dtsLo) ∧
  (i ≠ .pDtsM2 → w'.dts = w.dts)

theorem WkFrame.refl (i : Instr) (w : Wk) : WkFrame i w w := by simp [WkFrame]

/-- The header phases that go on, one row per edge of 30_encoding.md R96 and R97: phase `i`, run in `s`, consumes `n`
bits, leaves the working header `w` and goes to phase `p`. -/
inductive Decodes (s : State) : Instr → Nat → Wk → Phase → Prop
  | start : Decodes s .pStart 24 { s.wk with startCode := .val 0x000001 } .pSid
  | sid (v) : Decodes s .pSid 8 { s.wk with streamId := .val v } .pLen
  | lenOpt (v) : s.wkHasOpt = true → Decodes s .pLen 16 { s.wk with packetLength := .val v } .pFixed
  | lenNoOpt (v) : s.wkHasOpt = false → Decodes s .pLen 16 { s.wk with packetLength := .val v } .pPayload
  | fixed : Decodes s .pFixed 2 { s.wk with fixed := .val 0b10 } .pScr
  | scr (v) : Decodes s .pScr 2 { s.wk with scrambling := .val v } .pPri
  | pri (v) : Decodes s .pPri 1 { s.wk with priority := .val v } .pDai
  | dai (v) : Decodes s .pDai 1 { s.wk with dai := .val v } .pCpy
  | cpy (v) : Decodes s .pCpy 1 { s.wk with copyright := .val v } .pOoc
  | ooc (v) : Decodes s .pOoc 1 { s.wk with original := .val v } .pPdf
  | pdf (f) : ¬(f = 0b01 ∧ s.cfg.forbiddenPolicy = .failFast) →
      Decodes s .pPdf 2 { s.wk with ptsDtsFlags := .val f } .pEscrf
  | escrf (v) : Decodes s .pEscrf 1 { s.wk with escrFlag := .val v } .pEsrf
  | esrf (v) : Decodes s .pEsrf 1 { s.wk with esRateFlag := .val v } .pDsmf
  | dsmf (v) : Decodes s .pDsmf 1 { s.wk with dsmTrickFlag := .val v } .pAcif
  | acif (v) : Decodes s .pAcif 1 { s.wk with aciFlag := .val v } .pCrcf
  | crcf (v) : Decodes s .pCrcf 1 { s.wk with crcFlag := .val v } .pExtf
  | extf (v) : Decodes s .pExtf 1 { s.wk with extFlag := .val v } .pHdl
  | hdlPts (v) : s.wkFields.hasPts = true → Decodes s .pHdl 8 { s.wk with hdl := .val v } .pPtsPfx
  | hdlNone (v) : s.wkFields = .noTimestamp → Decodes s .pHdl 8 { s.wk with hdl := .val v } .pExtchk
  | ptsPfx : Decodes s .pPtsPfx 4 s.wk .pPtsHi
  | ptsHi (v) : Decodes s .pPtsHi 3 { s.wk with ptsHi := .val v } .pPtsM0
  | ptsM0 : Decodes s .pPtsM0 1 s.wk .pPtsMid
  | ptsMid (v) : Decodes s .pPtsMid 15 { s.wk with ptsMid := .val v } .pPtsM1
  | ptsM1 : Decodes s .pPtsM1 1 s.wk .pPtsLo
  | ptsLo (v) : Decodes s .pPtsLo 15 { s.wk with ptsLo := .val v } .pPtsM2
  | ptsM2Dts (v) : s.wkFields.hasDts = true → Decodes s .pPtsM2 1 { s.wk with pts := .val v } .pDtsPfx
  | ptsM2None (v) : s.wkFields.hasDts = false → Decodes s .pPtsM2 1 { s.wk with pts := .val v } .pExtchk
  | dtsPfx : Decodes s .pDtsPfx 4 s.wk .pDtsHi
  | dtsHi (v) : Decodes s .pDtsHi 3 { s.wk with dtsHi := .val v } .pDtsM0
  | dtsM0 : Decodes s .pDtsM0 1 s.wk .pDtsMid
  | dtsMid (v) : Decodes s .pDtsMid 15 { s.wk with dtsMid := .val v } .pDtsM1
  | dtsM1 : Decodes s .pDtsM1 1 s.wk .pDtsLo
  | dtsLo (v) : Decodes s .pDtsLo 15 { s.wk with dtsLo := .val v } .pDtsM2
  | dtsM2 (v) : Decodes s .pDtsM2 1 { s.wk with dts := .val v } .pExtchk
  | extchk : s.wk.extFlags = .ok 0 → Decodes s .pExtchk 0 s.wk .pPayload

/-- The phases in which a parse can fail: a header phase, the padding branch, and P_COMMIT of a start parse. -/
def CanFail (i : Instr) (s : State) : Prop :=
  (0 < (phaseCode i).toNat ∧ (phaseCode i).toNat < 0x21) ∨ i = .pPayloadPad ∨ (i = .pCommit ∧ s.cmdStart = true)

/-- Everything a phase can do that answers a next state. -/
inductive PhaseMove (i : Instr) (s t : State) : Prop
  | idles (hi : i = .idle) (ht : t = s)
  | decodes (n : Nat) (w : Wk) (p : Phase) (hd : Decodes s i n w p) (hn : n = 0 ∨ s.pos + n ≤ 8 * s.len)
      (ht : t = ((s.advance n).setWk w).goto p)
  | fails (n : Nat) (w : Wk) (r : Result) (c : Cause) (hi : CanFail i s) (hw : WkFrame i s.wk w)
      (hn : n = 0 ∨ s.pos + n ≤ 8 * s.len) (hc : c.resultOf = r) (hr : r ≠ .ok)
      (ht : t = failed r c ((s.advance n).setWk w))
  | pads (n : BitVec 16) (hi : i = .pPayloadPad) (hn : n.toNat ≤ bytesLeft s)
      (ht : t = { s.advance (8 * n.toNat) with consumed := .val n.toNat }.goto .pCommit)
  | forwards (bytes : List Byte) (hi : i = .pPayloadFwd)
      (ht : t = { s.emit bytes with
        status := { s.status with fed := true },
        feedOffset := .val (s.pos / 8), feedLen := .val (s.len - s.pos / 8), consumed := .val (s.len - s.pos / 8),
        pos := 8 * s.len }.goto .pCommit)
  | commits (hc : HeaderCommit) (hi : i = .pCommit) (hs : s.cmdStart = true)
      (hw : commitHeader s.cfg.streamIds s.wk = .ok hc) (hf : s.wkHasOpt = true → s.wk.ptsDtsFlags ≠ .val 0b01)
      (ht : t = endParse .ok .none 0 true
        { s with hdr := hc.hdr, status := s.status.withHeader s.cfg.streamIds hc })
  | continues (hi : i = .pCommit) (hs : s.cmdStart = false)
      (ht : t = endParse .ok .none 0 s.cfg.contValid s)

theorem phaseMove_short {i : Instr} {s : State} (hi : CanFail i s) :
    PhaseMove i s (failed .truncated .shortField s) :=
  .fails 0 s.wk .truncated .shortField hi (.refl i s.wk) (.inl rfl) rfl (by decide) rfl

/-- A phase that only records its field goes on or finds its field short. -/
theorem phaseMove_of_fieldPhase {i : Instr} {s t : State} {n : Nat} {write : BitVec n → Wk → Wk} {p : Phase}
    (h : fieldPhase n write p s = .next t) (hi : CanFail i s) (hd : ∀ v, Decodes s i n (write v s.wk) p) :
    PhaseMove i s t := by
  rcases fieldPhase_next h with ⟨-, rfl⟩ | ⟨hn, -, rfl⟩
  · exact phaseMove_short hi
  · exact .decodes n _ p (hd _) (.inr hn) rfl

/-- A phase that checks a marker goes on as `k` does, or fails. -/
theorem phaseMove_of_markerPhase {i : Instr} {s t : State} {c : Cause} {k : State → Out}
    (h : markerPhase c k s = .next t) (hi : CanFail i s) (hc : c.resultOf = .malformed)
    (hk : s.pos + 1 ≤ 8 * s.len → k (s.advance 1) = .next t → PhaseMove i s t) : PhaseMove i s t := by
  rcases markerPhase_next h with ⟨-, rfl⟩ | ⟨hn, -, rfl⟩ | ⟨hn, -, h⟩
  · exact phaseMove_short hi
  · exact .fails 1 s.wk .malformed c hi (.refl i s.wk) (.inr hn) hc (by decide) rfl
  · exact hk hn h

/-- A phase that reads a field goes on as `k` does with its value, or finds it short. -/
theorem phaseMove_of_readField {i : Instr} {s t : State} {n : Nat} {k : Nat → State → Out}
    (h : readField n s k = .next t) (hi : CanFail i s)
    (hk : s.pos + n ≤ 8 * s.len → ∀ v, k v (s.advance n) = .next t → PhaseMove i s t) : PhaseMove i s t := by
  rcases readField_next h with ⟨-, rfl⟩ | ⟨hn, -, h⟩
  · exact phaseMove_short hi
  · exact hk hn _ h

theorem wkHasOpt_of_streamId {s : State} {id : Byte} (h : s.wk.streamId = .val id) :
    s.wkHasOpt = hasOptionalHeader s.cfg.streamIds id := by simp [State.wkHasOpt, h]

theorem wkFields_of_flags {s : State} {f : BitVec 2} (h : s.wk.ptsDtsFlags = .val f) :
    s.wkFields = timestampFields f := by simp [State.wkFields, h]

theorem phaseMove_pStart {s t : State} (h : exec .pStart s = .next t) : PhaseMove .pStart s t := by
  refine phaseMove_of_readField h (.inl (by decide)) fun hn v hv => ?_
  split at hv
  · exact .fails 24 _ .malformed .badStartCode (.inl (by decide)) (by simp [WkFrame]) (.inr hn) rfl (by decide)
      (Host.Outcome.next.inj hv).symm
  · rename_i heq
    obtain rfl := not_not.mp heq
    exact .decodes 24 _ .pSid .start (.inr hn) (Host.Outcome.next.inj hv).symm

theorem phaseMove_pLen {s t : State} (h : exec .pLen s = .next t) : PhaseMove .pLen s t := by
  refine phaseMove_of_readField h (.inl (by decide)) fun hn v hv => ?_
  obtain ⟨id, hid, hv⟩ := needs_next hv
  have hopt := wkHasOpt_of_streamId (s := s) hid
  have ht := (Host.Outcome.next.inj hv).symm
  cases ho : hasOptionalHeader s.cfg.streamIds id with
  | true => exact .decodes 16 _ .pFixed (.lenOpt _ (hopt.trans ho)) (.inr hn) (by simpa [ho] using ht)
  | false => exact .decodes 16 _ .pPayload (.lenNoOpt _ (hopt.trans ho)) (.inr hn) (by simpa [ho] using ht)

theorem phaseMove_pFixed {s t : State} (h : exec .pFixed s = .next t) : PhaseMove .pFixed s t := by
  refine phaseMove_of_readField h (.inl (by decide)) fun hn v hv => ?_
  split at hv
  · exact .fails 2 _ .malformed .badFixedBits (.inl (by decide)) (by simp [WkFrame]) (.inr hn) rfl (by decide)
      (Host.Outcome.next.inj hv).symm
  · rename_i heq
    obtain rfl := not_not.mp heq
    exact .decodes 2 _ .pScr .fixed (.inr hn) (Host.Outcome.next.inj hv).symm

theorem phaseMove_pPdf {s t : State} (h : exec .pPdf s = .next t) : PhaseMove .pPdf s t := by
  refine phaseMove_of_readField h (.inl (by decide)) fun hn v hv => ?_
  rw [flagsRead_eq] at hv
  have ht := (Host.Outcome.next.inj hv).symm
  split at ht
  · exact .fails 2 _ .malformed .forbiddenPtsDts (.inl (by decide)) (by simp [WkFrame]) (.inr hn) rfl (by decide) ht
  · rename_i hf
    exact .decodes 2 _ .pEscrf (.pdf _ hf) (.inr hn) ht

theorem phaseMove_pHdl {s t : State} (h : exec .pHdl s = .next t) : PhaseMove .pHdl s t := by
  refine phaseMove_of_readField h (.inl (by decide)) fun hn v hv => ?_
  obtain ⟨f, hf, hv⟩ := needs_next hv
  have hfields := wkFields_of_flags (s := s) hf
  have ht := (Host.Outcome.next.inj hv).symm
  cases ho : timestampFields f with
  | noTimestamp =>
    rw [ho] at hfields ht
    exact .decodes 8 _ .pExtchk (.hdlNone _ hfields) (.inr hn) ht
  | pts | ptsDts =>
    rw [ho] at hfields ht
    exact .decodes 8 _ .pPtsPfx (.hdlPts _ (congrArg TimestampFields.hasPts hfields)) (.inr hn) ht

theorem phaseMove_pPtsPfx {s t : State} (h : exec .pPtsPfx s = .next t) : PhaseMove .pPtsPfx s t := by
  refine phaseMove_of_readField h (.inl (by decide)) fun hn v hv => ?_
  obtain ⟨f, -, hv⟩ := needs_next hv
  split at hv
  · exact .fails 4 _ .malformed .badPtsPrefix (.inl (by decide)) (.refl _ _) (.inr hn) rfl (by decide)
      (Host.Outcome.next.inj hv).symm
  · exact .decodes 4 _ .pPtsHi .ptsPfx (.inr hn) (Host.Outcome.next.inj hv).symm

theorem phaseMove_pPtsM2 {s t : State} (h : exec .pPtsM2 s = .next t) : PhaseMove .pPtsM2 s t := by
  refine phaseMove_of_markerPhase h (.inl (by decide)) rfl fun hn hv => ?_
  obtain ⟨hi, -, hv⟩ := needs_next hv
  obtain ⟨mid, -, hv⟩ := needs_next hv
  obtain ⟨lo, -, hv⟩ := needs_next hv
  obtain ⟨f, hf, hv⟩ := needs_next hv
  have hfields := congrArg TimestampFields.hasDts (wkFields_of_flags (s := s) hf)
  have ht := (Host.Outcome.next.inj hv).symm
  cases ho : (timestampFields f).hasDts with
  | true => exact .decodes 1 _ .pDtsPfx (.ptsM2Dts _ (hfields.trans ho)) (.inr hn) (by simpa [ho] using ht)
  | false => exact .decodes 1 _ .pExtchk (.ptsM2None _ (hfields.trans ho)) (.inr hn) (by simpa [ho] using ht)

theorem phaseMove_pDtsPfx {s t : State} (h : exec .pDtsPfx s = .next t) : PhaseMove .pDtsPfx s t := by
  refine phaseMove_of_readField h (.inl (by decide)) fun hn v hv => ?_
  split at hv
  · exact .fails 4 _ .malformed .badDtsPrefix (.inl (by decide)) (.refl _ _) (.inr hn) rfl (by decide)
      (Host.Outcome.next.inj hv).symm
  · exact .decodes 4 _ .pDtsHi .dtsPfx (.inr hn) (Host.Outcome.next.inj hv).symm

theorem phaseMove_pDtsM2 {s t : State} (h : exec .pDtsM2 s = .next t) : PhaseMove .pDtsM2 s t := by
  refine phaseMove_of_markerPhase h (.inl (by decide)) rfl fun hn hv => ?_
  obtain ⟨hi, -, hv⟩ := needs_next hv
  obtain ⟨mid, -, hv⟩ := needs_next hv
  obtain ⟨lo, -, hv⟩ := needs_next hv
  exact .decodes 1 _ .pExtchk (.dtsM2 _) (.inr hn) (Host.Outcome.next.inj hv).symm

theorem phaseMove_pExtchk {s t : State} (h : exec .pExtchk s = .next t) : PhaseMove .pExtchk s t := by
  simp only [exec, execPExtchk] at h
  split at h
  · cases h
  · rename_i flags hflags
    split at h
    · exact .fails 0 _ .unsupported .extFlagSet (.inl (by decide)) (.refl _ _) (.inl rfl) rfl (by decide)
        (Host.Outcome.next.inj h).symm
    · rename_i heq
      obtain rfl := not_not.mp heq
      exact .decodes 0 _ .pPayload (.extchk hflags) (.inl rfl) (Host.Outcome.next.inj h).symm

theorem phaseMove_pPayloadPad {s t : State} (h : exec .pPayloadPad s = .next t) : PhaseMove .pPayloadPad s t := by
  obtain ⟨n, -, h⟩ := needs_next (show needs _ _ _ = _ from h)
  split at h
  · exact .fails 0 _ .truncated .shortPadding (.inr (.inl rfl)) (.refl _ _) (.inl rfl) rfl (by decide)
      (Host.Outcome.next.inj h).symm
  · rename_i hn
    exact .pads n rfl (not_lt.mp hn) (Host.Outcome.next.inj h).symm

theorem phaseMove_pPayloadFwd {s t : State} (h : exec .pPayloadFwd s = .next t) : PhaseMove .pPayloadFwd s t := by
  simp only [exec, execPPayloadFwd, currentByte] at h
  split at h
  · cases h
  · rename_i o ho
    obtain ⟨-, rfl⟩ : s.pos % 8 = 0 ∧ s.pos / 8 = o := by simpa using ho
    split at h
    · cases h
    · exact .forwards _ rfl (Host.Outcome.next.inj h).symm

theorem phaseMove_pCommit {s t : State} (h : exec .pCommit s = .next t) : PhaseMove .pCommit s t := by
  have hok (hf : s.wkHasOpt = true → s.wk.ptsDtsFlags ≠ .val 0b01) (h : terminateOk s = .next t) :
      PhaseMove .pCommit s t := by
    rcases terminateOk_next h with ⟨hs, ht⟩ | ⟨hs, hc, hw, ht⟩
    · exact .continues rfl hs ht
    · exact .commits hc rfl hs hw hf ht
  simp only [exec, execPCommit] at h
  split at h
  · rename_i hs
    obtain ⟨id, hid, h⟩ := needs_next h
    have hopt := wkHasOpt_of_streamId hid
    split at h
    · obtain ⟨f, hf, h⟩ := needs_next h
      split at h
      · exact .fails 0 _ .malformed .forbiddenPtsDts (.inr (.inr ⟨rfl, hs⟩)) (.refl _ _) (.inl rfl) rfl (by decide)
          (Host.Outcome.next.inj h).symm
      · rename_i hne
        exact hok (fun _ => by simpa [hf] using hne) h
    · rename_i ho
      exact hok (fun h => absurd (hopt.symm.trans h) ho) h
  · rename_i hs
    rcases terminateOk_next h with ⟨hs', ht⟩ | ⟨hs', -⟩
    · exact .continues rfl hs' ht
    · exact absurd hs' hs

/-- Every phase that answers a next state makes one of the moves listed. -/
theorem phaseMove_of_exec {i : Instr} {s t : State} {c : Config} (hp : (encode c i).port = .phase)
    (h : exec i s = .next t) : PhaseMove i s t := by
  cases i with
  | parseS | parseC | inWrite | regRead | classify | reset | readBit | readBits | bytesLeft | current | isAudioStream
  | isVideoStream | isPaddingStream | hasOptionalHeader | sidPsm | sidPadding | sidPriv2 | sidEcm | sidEmm | sidDsmcc
  | sidH2221e | sidPsd | sidAudio | sidVideo | sidOther | pdfNone | pdfForbidden | pdfPts | pdfPtsDts => cases hp
  | idle => exact .idles rfl (Host.Outcome.next.inj h).symm
  | pSid | pScr | pPri | pDai | pCpy | pOoc | pEscrf | pEsrf | pDsmf | pAcif | pCrcf | pExtf
  | pPtsHi | pPtsMid | pPtsLo | pDtsHi | pDtsMid | pDtsLo =>
    simp only [exec, execPSid, execPScr, execPPri, execPDai, execPCpy, execPOoc, execPEscrf, execPEsrf, execPDsmf,
      execPAcif, execPCrcf, execPExtf, execPPtsHi, execPPtsMid, execPPtsLo, execPDtsHi, execPDtsMid, execPDtsLo] at h
    exact phaseMove_of_fieldPhase h (.inl (by decide)) fun v => by constructor
  | pPtsM0 | pPtsM1 | pDtsM0 | pDtsM1 =>
    simp only [exec, execPPtsM0, execPPtsM1, execPDtsM0, execPDtsM1] at h
    exact phaseMove_of_markerPhase h (.inl (by decide)) rfl
      fun hn hk => .decodes 1 s.wk _ (by constructor) (.inr hn) (Host.Outcome.next.inj hk).symm
  | pStart => exact phaseMove_pStart h
  | pLen => exact phaseMove_pLen h
  | pFixed => exact phaseMove_pFixed h
  | pPdf => exact phaseMove_pPdf h
  | pHdl => exact phaseMove_pHdl h
  | pPtsPfx => exact phaseMove_pPtsPfx h
  | pPtsM2 => exact phaseMove_pPtsM2 h
  | pDtsPfx => exact phaseMove_pDtsPfx h
  | pDtsM2 => exact phaseMove_pDtsM2 h
  | pExtchk => exact phaseMove_pExtchk h
  | pPayloadPad => exact phaseMove_pPayloadPad h
  | pPayloadFwd => exact phaseMove_pPayloadFwd h
  | pCommit => exact phaseMove_pCommit h
  | phaseReserved => cases h

/-! ## Host ports -/

/-- Everything a command or a host-port action can do that answers a next state (42_header_parser.md R159;
60_exceptions.md R270). -/
inductive HostMove (i : Instr) (s t : State) : Prop
  | commandIgnored (f : FaultReg) (hi : ∃ len, i = .parseS len ∨ i = .parseC len)
      (hf : f = { s.faultReg with cmdWhileBusy := true } ∨ f = { s.faultReg with lenOverMax := true })
      (ht : t = { s with faultReg := f })
  | commandAccepted (start : Bool) (len : Nat) (hi : i = .parseS len ∨ i = .parseC len) (hb : s.status.busy = false)
      (hl : len ≤ s.cfg.maxLen) (ht : t = accept start len s)
  | writeIgnored (a : Nat) (b : Byte) (hi : i = .inWrite a b)
      (ht : t = { s with faultReg := { s.faultReg with inWriteWhileBusy := true } })
  | writes (a : Nat) (b : Byte) (hi : i = .inWrite a b) (hb : s.status.busy = false) (ha : a < s.cfg.maxLen)
      (ht : t = { s with inBuf := Memory.write s.inBuf a b })
  | answers (o : Output) (ht : t = s.answer o)
  | resets (hi : i = .reset) (ht : t = { State.resetOf s.cfg with turns := s.turns })

theorem hostMove_of_command {i : Instr} {start : Bool} {len : Nat} {s t : State}
    (hi : i = .parseS len ∨ i = .parseC len) (h : command start len s = .next t) : HostMove i s t := by
  rw [command_eq] at h
  have ht := (Host.Outcome.next.inj h).symm
  split at ht
  · exact .commandIgnored _ ⟨len, hi⟩ (.inl rfl) ht
  · rename_i hb
    split at ht
    · exact .commandIgnored _ ⟨len, hi⟩ (.inr rfl) ht
    · rename_i hl
      exact .commandAccepted start len hi (Bool.eq_false_iff.mpr hb) (not_lt.mp hl) ht

theorem hostMove_inWrite {a : Nat} {b : Byte} {s t : State} (h : exec (.inWrite a b) s = .next t) :
    HostMove (.inWrite a b) s t := by
  simp only [exec, execInWrite] at h
  split at h
  · cases h
  · rename_i ha
    split at h
    · exact .writeIgnored a b rfl (Host.Outcome.next.inj h).symm
    · rename_i hb
      exact .writes a b rfl (Bool.eq_false_iff.mpr hb) (not_le.mp ha) (Host.Outcome.next.inj h).symm

theorem hostMove_regRead {n : BitVec 8} {s t : State} (h : exec (.regRead n) s = .next t) :
    HostMove (.regRead n) s t := by
  simp only [exec, execRegRead] at h
  split at h
  · exact .answers _ (Host.Outcome.next.inj h).symm
  · cases h

/-- Every host-port instruction that answers a next state makes one of the moves listed. -/
theorem hostMove_of_exec {i : Instr} {s t : State} {c : Config} (hp : (encode c i).port.isHost = true)
    (h : exec i s = .next t) : HostMove i s t := by
  cases i with
  | parseS len => exact hostMove_of_command (.inl rfl) h
  | parseC len => exact hostMove_of_command (.inr rfl) h
  | inWrite => exact hostMove_inWrite h
  | regRead => exact hostMove_regRead h
  | classify => exact .answers _ (Host.Outcome.next.inj h).symm
  | reset => exact .resets rfl (Host.Outcome.next.inj h).symm
  | _ => cases hp

/-! ## Internal units -/

/-- Everything an operation of an internal unit can do that answers a next state (notes/assumptions/8.md to 10.md and
26.md): only a row of the PTS_DTS_flags table writes the working header. -/
inductive UnitMove (i : Instr) (s t : State) : Prop
  | answers (n : Nat) (p : BitVec 6) (o : Output) (ht : t = { s.advance n with phase := p, out := o })
  | fails (r : Result) (c : Cause) (ht : t = failed r c s)
  | readsFlags (f : BitVec 2) (c : Config) (hi : (encode c i).port = .ptsDtsFlags)
      (h : flagsRow f s = .next t)

/-- A reader primitive answers its value, or fails where the field is short. -/
theorem unitMove_of_readField {i : Instr} {n : Nat} {o : Nat → Output} {s t : State}
    (h : readField n s (fun v s => .next (s.answer (o v))) = .next t) : UnitMove i s t := by
  rcases readField_next h with ⟨-, rfl⟩ | ⟨-, -, h⟩
  · exact .fails _ _ rfl
  · exact .answers n s.phase _ (Host.Outcome.next.inj h).symm

theorem unitMove_current {s t : State} (h : exec .current s = .next t) : UnitMove .current s t := by
  simp only [exec, execCurrent] at h
  split at h
  · exact .answers 0 s.phase _ (Host.Outcome.next.inj h).symm
  · cases h

/-- Every unit operation that answers a next state makes one of the moves listed. -/
theorem unitMove_of_exec {i : Instr} {s t : State} {c : Config} (hp : (encode c i).port.isUnit = true)
    (h : exec i s = .next t) : UnitMove i s t := by
  cases i with
  | readBit | readBits => exact unitMove_of_readField h
  | bytesLeft | isAudioStream | isVideoStream | isPaddingStream | hasOptionalHeader =>
    exact .answers 0 s.phase _ (Host.Outcome.next.inj h).symm
  | current => exact unitMove_current h
  | sidPsm | sidPadding | sidPriv2 | sidEcm | sidEmm | sidDsmcc | sidH2221e | sidPsd | sidAudio | sidVideo | sidOther =>
    exact .answers 0 _ _ (Host.Outcome.next.inj h).symm
  | pdfNone => exact .readsFlags 0b00 c rfl h
  | pdfForbidden => exact .readsFlags 0b01 c rfl h
  | pdfPts => exact .readsFlags 0b10 c rfl h
  | pdfPtsDts => exact .readsFlags 0b11 c rfl h
  | _ => cases hp

/-- A port is the host's, a unit's, or the phase selector. -/
theorem port_cases (p : Port) : p = .phase ∨ p.isHost = true ∨ p.isUnit = true := by cases p <;> decide

end Sys2Proof.Proofs.Moves
end

section
/-! Which move a step makes: the word that the fetch finds stands on one port, its instruction makes one of that port's
moves, and a turn of PESP runs the phase that PHASE selects. -/

namespace Sys2Proof.Proofs.Turns
open Sys2Proof.Machine Sys2Proof.Proofs.Moves Sys2Proof.Laws.Shape

/-! ## Decoded words -/

theorem encode_port (c : Config) (i : Instr) : (encode c i).port = portOf i := by cases i <;> rfl

theorem oneByte_ok {k : Byte → Except DecodeError Instr} {bs : List Byte} {i : Instr} (h : oneByte k bs = .ok i) :
    ∃ b, k b = .ok i := by
  unfold oneByte at h
  split at h
  · exact ⟨_, h⟩
  · cases h

theorem portOf_decodeCommand {c : Config} {bs : List Byte} {i : Instr} (h : decodeCommand c bs = .ok i) :
    portOf i = .command := by
  unfold decodeCommand at h
  split at h
  · cases h
  · split at h
    · cases h
    · split at h
      · cases h; rfl
      · split at h <;> cases h
        rfl

theorem portOf_decodeInWrite {c : Config} {bs : List Byte} {i : Instr} (h : decodeInWrite c bs = .ok i) :
    portOf i = .inWrite := by
  unfold decodeInWrite at h
  split at h
  · cases h
  · split at h <;> cases h
    rfl

theorem portOf_decodeReader {c : Config} {bs : List Byte} {i : Instr} (h : decodeReader c bs = .ok i) :
    portOf i = .reader := by
  unfold decodeReader at h
  split at h
  · cases h
  · split at h <;> (try split at h) <;> cases h <;> rfl

theorem portOf_decodeStreamId (c : Config) (id : Byte) : portOf (decodeStreamId c id) = .streamId := by
  unfold decodeStreamId
  split <;> rfl

theorem portOf_decodePtsDtsFlags (b : Byte) : portOf (decodePtsDtsFlags b) = .ptsDtsFlags := by
  unfold decodePtsDtsFlags
  split <;> rfl

theorem portOf_phaseInstr : ∀ code : BitVec 6, portOf (phaseInstr code) = .phase := by decide

theorem portOf_decodePhase {b : Byte} {i : Instr} (h : decodePhase b = .ok i) : portOf i = .phase := by
  unfold decodePhase at h
  split at h
  · cases h; rfl
  · split at h <;> cases h
    exact portOf_phaseInstr _

/-- A word decodes to an instruction of its own port. -/
theorem portOf_decode {c : Config} {w : PortWord} {i : Instr} (h : decode c w = .ok i) : portOf i = w.port := by
  obtain ⟨p, bs⟩ := w
  cases p with
  | command => exact portOf_decodeCommand h
  | inWrite => exact portOf_decodeInWrite h
  | reader => exact portOf_decodeReader h
  | reset =>
    simp only [decode] at h
    split at h <;> cases h
    rfl
  | phase =>
    obtain ⟨b, hb⟩ := oneByte_ok h
    exact portOf_decodePhase hb
  | streamId =>
    obtain ⟨b, hb⟩ := oneByte_ok h
    cases hb
    exact portOf_decodeStreamId c b
  | ptsDtsFlags =>
    obtain ⟨b, hb⟩ := oneByte_ok h
    cases hb
    exact portOf_decodePtsDtsFlags b
  | regRead | classify | isAudio | isVideo | isPadding | hasOptional =>
    obtain ⟨b, hb⟩ := oneByte_ok h
    cases hb
    rfl

/-- The one word of RESET. -/
theorem word_of_decode_reset {c : Config} {w : PortWord} (h : decode c w = .ok .reset) : w = ⟨.reset, []⟩ := by
  have hp := portOf_decode h
  obtain ⟨p, bs⟩ := w
  obtain rfl : Port.reset = p := hp
  simp only [decode] at h
  split at h
  · rename_i hbs
    rw [hbs]
  · cases h

/-! ## The phase in PHASE -/

/-- Phase `i` is the one that PHASE selects; the padding branch only in a start parse (43_payload_result.md R224). -/
def Selected (i : Instr) (s : State) : Prop := phaseCode i = s.phase ∧ (i = .pPayloadPad → s.cmdStart = true)

theorem decodePhase_code : ∀ code : BitVec 6, decodePhase (code.setWidth 8) = .ok (phaseInstr code) := by decide

theorem phaseCode_phaseInstr : ∀ code : BitVec 6, phaseCode (phaseInstr code) = code := by decide

theorem phaseInstr_ne_pad : ∀ code : BitVec 6, phaseInstr code ≠ .pPayloadPad := by decide

theorem selected_phaseInstr (s : State) : Selected (phaseInstr s.phase) s :=
  ⟨phaseCode_phaseInstr s.phase, fun h => absurd h (phaseInstr_ne_pad s.phase)⟩

theorem fetchPhase_run {s u : State} {i : Instr} (h : fetchPhase s = .run i u) :
    u = s ∧ portOf i = .phase ∧ Selected i s := by
  unfold fetchPhase at h
  split at h
  · rename_i b hb
    obtain ⟨hd, rfl⟩ := fetchWord_run h
    have hi : decodePhase b = .ok i := hd
    refine ⟨rfl, portOf_decodePhase hi, ?_⟩
    have hself (hb : u.phase.setWidth 8 = b) : Selected i u := by
      rw [← hb, decodePhase_code] at hi
      cases hi
      exact selected_phaseInstr u
    unfold phaseByte at hb
    split at hb
    · rename_i hpay
      split at hb
      · cases hb
      · split at hb
        · cases hb
          cases hi
          obtain ⟨hphase, hstart⟩ := hpay
          exact ⟨hphase.symm, fun _ => hstart⟩
        · exact hself (Except.ok.inj hb)
    · exact hself (Except.ok.inj hb)
  · cases h

/-! ## Steps -/

/-- The state in which the next instruction runs: the turn at the head is taken off the list. -/
abbrev dequeued (s : State) : State := { s with turns := s.turns.tail }

/-- Everything a step can do that answers a next state: a turn of PESP, a host action, or a unit operation. -/
inductive StepMove (s t : State) : Prop
  | pesp (i : Instr) (ht : s.pespTurn = true) (hs : Selected i (dequeued s)) (hm : PhaseMove i (dequeued s) t)
  | host (w : PortWord) (i : Instr) (ht : s.turns.head? = some (.host w)) (hd : decode s.cfg w = .ok i)
      (hm : HostMove i (dequeued s) t)
  | unit (w : PortWord) (i : Instr) (ht : s.turns.head? = some (.unit w)) (hm : UnitMove i (dequeued s) t)

theorem stepMove_of_fetchPhase {s t u : State} {i : Instr} (ht : s.pespTurn = true)
    (hf : fetchPhase (dequeued s) = .run i u) (h : exec i u = .next t) : StepMove s t := by
  obtain ⟨rfl, hp, hs⟩ := fetchPhase_run hf
  exact .pesp i ht hs (phaseMove_of_exec ((encode_port s.cfg i).trans hp) h)

/-- Every step that answers a next state makes one of the moves listed. -/
theorem stepMove_of_step {s t : State} (h : step s = .next t) : StepMove s t := by
  obtain ⟨i, u, hf, h⟩ := step_next h
  unfold fetch at hf
  split at hf
  · rename_i hs
    have hnil : s.turns.tail = s.turns := by rw [hs]; rfl
    have hq : dequeued s = s := by rw [dequeued, hnil]
    exact stepMove_of_fetchPhase (by simp [State.pespTurn, hs]) (hq.symm ▸ hf) h
  · rename_i rest hs
    exact stepMove_of_fetchPhase (by simp [State.pespTurn, hs]) (by simpa [dequeued, hs] using hf) h
  · rename_i w rest hs
    split at hf
    · rename_i hw
      obtain ⟨hd, rfl⟩ := fetchWord_run hf
      have hp := (encode_port s.cfg i).trans (portOf_decode hd)
      refine .host w i (by simp [hs]) hd ?_
      simpa [dequeued, hs] using hostMove_of_exec (hp ▸ hw) h
    · cases hf
  · rename_i w rest hs
    split at hf
    · rename_i hw
      obtain ⟨hd, rfl⟩ := fetchWord_run hf
      have hp := (encode_port s.cfg i).trans (portOf_decode hd)
      refine .unit w i (by simp [hs]) ?_
      simpa [dequeued, hs] using unitMove_of_exec (hp ▸ hw) h
    · cases hf

/-- A turn of PESP makes a move of the phase that PHASE selects. -/
theorem phaseMove_of_step {s t : State} (hp : s.pespTurn = true) (h : step s = .next t) :
    ∃ i, Selected i (dequeued s) ∧ PhaseMove i (dequeued s) t := by
  rcases stepMove_of_step h with ⟨i, -, hs, hm⟩ | ⟨w, i, ht, -, -⟩ | ⟨w, i, ht, -⟩
  · exact ⟨i, hs, hm⟩
  · simp [State.pespTurn, ht] at hp
  · simp [State.pespTurn, ht] at hp

end Sys2Proof.Proofs.Turns
end

section
/-! What a host reads: RegRead by register number, the STATUS and FAULT words bit by bit, the reads after reset, and the
widths of the registers. -/

namespace Sys2Proof.Proofs.Registers
open Sys2Proof.Machine

/-! ## RegRead -/

theorem reads_of_value {s : State} {n : BitVec 8} {v : BitVec 64} (h : registerValue s n = .ok v) : s.reads n v := by
  simp only [State.reads, exec, execRegRead, h]
  rfl

theorem readFaults_of_error {s : State} {n : BitVec 8} {r : RegName} (h : registerValue s n = .error r) :
    s.readFaults n r := by
  simp only [State.readFaults, exec, execRegRead, h]

/-- Zero extension on the read port does not change a register of up to 64 bits. -/
theorem zext64_toNat {n : Nat} (x : BitVec n) : zext64 x.toNat = x.setWidth 64 := by
  apply BitVec.eq_of_toNat_eq
  simp [zext64]

theorem readsOrFaults_of_portValue {k : Nat} {s : State} {n : BitVec 8} {r : RegName} {v : Poisonable (BitVec k)}
    (h : registerValue s n = portValue r v) : s.readsOrFaults n r v := by
  constructor
  · rintro x rfl
    exact reads_of_value (h.trans (congrArg Except.ok (zext64_toNat x)))
  · rintro rfl
    exact readFaults_of_error h

/-- CONSUMED and the feed registers while no parse runs. -/
theorem readsOrFaults_of_resultValue {s : State} {n : BitVec 8} {r : RegName} {v : Poisonable Nat}
    (hb : s.status.busy = false) (h : registerValue s n = resultValue s r v) :
    (∀ x, v = .val x → s.reads n (BitVec.ofNat 64 x)) ∧ (v = .poison → s.readFaults n r) := by
  simp only [resultValue, hb, Bool.false_eq_true, if_false] at h
  constructor
  · rintro x rfl
    exact reads_of_value h
  · rintro rfl
    exact readFaults_of_error h

/-- A number beyond the table of 10_state.md R29 reads 0. -/
theorem registerValue_of_ge {s : State} {n : BitVec 8} (h : 0x10 ≤ n.toNat) : registerValue s n = .ok 0 := by
  unfold registerValue
  split
  case h_17 => rfl
  all_goals omega

/-- Settles O9: the value of each register number, read off the table of R29. -/
theorem regReadReturnsTheRegister : Obligations.RegReadReturnsTheRegister := by
  unfold Obligations.RegReadReturnsTheRegister
  intro s
  have hstart : zext64 s.cmdStart.toNat = if s.cmdStart then 1 else 0 := by cases s.cmdStart <;> rfl
  refine ⟨reads_of_value (congrArg Except.ok (zext64_toNat _)), reads_of_value (congrArg Except.ok (zext64_toNat _)),
    reads_of_value (congrArg Except.ok hstart), reads_of_value rfl, reads_of_value rfl, fun hb => ?_,
    readsOrFaults_of_portValue rfl, readsOrFaults_of_portValue rfl, readsOrFaults_of_portValue rfl,
    readsOrFaults_of_portValue rfl, readsOrFaults_of_portValue rfl, readsOrFaults_of_portValue rfl,
    readsOrFaults_of_portValue rfl, readsOrFaults_of_portValue rfl, fun n hn => reads_of_value (registerValue_of_ge hn)⟩
  obtain ⟨hconsumed, hconsumed'⟩ := readsOrFaults_of_resultValue (n := 0x05) hb rfl
  obtain ⟨hoffset, hoffset'⟩ := readsOrFaults_of_resultValue (n := 0x06) hb rfl
  obtain ⟨hlen, hlen'⟩ := readsOrFaults_of_resultValue (n := 0x07) hb rfl
  exact ⟨hconsumed, hconsumed', hoffset, hoffset', hlen, hlen'⟩

/-! ## The words of STATUS and FAULT -/

theorem reads_status (s : State) : s.reads 0x00 (s.status.readWord.setWidth 64) :=
  reads_of_value (congrArg Except.ok (zext64_toNat _))

theorem reads_fault (s : State) : s.reads 0x01 (s.faultReg.word.setWidth 64) :=
  reads_of_value (congrArg Except.ok (zext64_toNat _))

/-- While DONE is 0 a read of STATUS gives BUSY alone (10_state.md R32). -/
theorem readWord_of_not_done {st : Status} (h : st.done = false) :
    st.readWord = (BitVec.ofBool st.busy).setWidth 32 := by
  rw [Status.readWord, h, if_neg Bool.false_ne_true]
  generalize st.busy = b
  revert b
  decide

theorem readWord_of_done {st : Status} (h : st.done = true) : st.readWord = st.word := by rw [Status.readWord, if_pos h]

/-- The bits of the STATUS word (10_state.md R30): each field in its place, the reserved bits 0 (R41). -/
theorem statusWord_getLsbD (st : Status) (i : Nat) :
    st.word.getLsbD i =
      if i < 1 then st.busy else if i < 2 then st.done else if i < 4 then st.result.code.getLsbD (i - 2)
      else if i < 5 then st.valid else if i < 6 then st.hdrPresent else if i < 7 then st.optPresent
      else if i < 8 then st.ptsPresent else if i < 9 then st.dtsPresent else if i < 10 then st.fed
      else if i < 11 then st.isAudio else if i < 12 then st.isVideo else if i < 13 then st.isPadding
      else if i < 14 then st.hasOpt else if i < 16 then false else if i < 20 then st.cause.code.getLsbD (i - 16)
      else if i < 26 then st.failPhase.getLsbD (i - 20) else false := by
  rcases Nat.lt_or_ge i 32 with hi | hi
  · change BitVec.getLsbD (w := 6 + 6 + 4 + 2 + 1 + 1 + 1 + 1 + 1 + 1 + 1 + 1 + 1 + 1 + 2 + 1 + 1) st.word i = _
    simp only [Status.word, BitVec.getLsbD_append, BitVec.getLsbD_ofBool]
    interval_cases i <;> simp
  · rw [BitVec.getLsbD_of_ge _ _ hi]
    repeat rw [if_neg (by omega)]

/-- The bits of the FAULT word (10_state.md R42). -/
theorem faultWord_getLsbD (f : FaultReg) (i : Nat) :
    f.word.getLsbD i =
      if i < 1 then f.cmdWhileBusy else if i < 2 then f.lenOverMax else if i < 3 then f.inWriteWhileBusy
      else false := by
  rcases Nat.lt_or_ge i 32 with hi | hi
  · change BitVec.getLsbD (w := 29 + 1 + 1 + 1) f.word i = _
    simp only [FaultReg.word, BitVec.getLsbD_append, BitVec.getLsbD_ofBool]
    interval_cases i <;> simp
  · rw [BitVec.getLsbD_of_ge _ _ hi]
    repeat rw [if_neg (by omega)]

/-- A field of a 32-bit register on the 64-bit read port, from its bits. -/
theorem extractLsb'_setWidth_eq {w : BitVec 32} {a n : Nat} {v : BitVec n} (ha : a + n ≤ 64)
    (h : ∀ k < n, w.getLsbD (a + k) = v.getLsbD k) : (w.setWidth 64).extractLsb' a n = v := by
  apply BitVec.eq_of_getLsbD_eq
  intro k hk
  simp [-BitVec.getLsbD_eq_getElem, hk, show a + k < 64 by omega, h]

theorem statusWord_result (st : Status) : (st.word.setWidth 64).extractLsb' 2 2 = st.result.code :=
  extractLsb'_setWidth_eq (by decide) fun k hk => by rw [statusWord_getLsbD]; interval_cases k <;> rfl

theorem statusWord_reserved (st : Status) : (st.word.setWidth 64).extractLsb' 14 2 = 0 :=
  extractLsb'_setWidth_eq (by decide) fun k hk => by rw [statusWord_getLsbD]; interval_cases k <;> rfl

theorem statusWord_cause (st : Status) : (st.word.setWidth 64).extractLsb' 16 4 = st.cause.code :=
  extractLsb'_setWidth_eq (by decide) fun k hk => by rw [statusWord_getLsbD]; interval_cases k <;> rfl

theorem statusWord_failPhase (st : Status) : (st.word.setWidth 64).extractLsb' 20 6 = st.failPhase :=
  extractLsb'_setWidth_eq (by decide) fun k hk => by rw [statusWord_getLsbD]; interval_cases k <;> rfl

theorem statusWord_high (st : Status) {i : Nat} (hi : 26 ≤ i) : st.word.getLsbD i = false := by
  rw [statusWord_getLsbD]
  repeat rw [if_neg (by omega)]

/-- Settles O11: while DONE is 0 the word is BUSY alone; with DONE = 1 it is the word of R30, read bit by bit. -/
theorem statusWordLayout : Obligations.StatusWordLayout := by
  unfold Obligations.StatusWordLayout
  intro s
  refine ⟨_, reads_status s, ?_, fun hd i hi => ?_, fun hd => ?_⟩
  · cases hd : s.status.done with
    | false => simp [readWord_of_not_done hd]
    | true => simp [-BitVec.getLsbD_eq_getElem, readWord_of_done hd, statusWord_getLsbD]
  · rw [readWord_of_not_done hd, BitVec.getLsbD_setWidth, BitVec.getLsbD_setWidth,
      BitVec.getLsbD_of_ge (BitVec.ofBool _) i hi, Bool.and_false, Bool.and_false]
  · rw [readWord_of_done hd]
    refine ⟨?_, (statusWord_result _).trans rfl, ?_, ?_, ?_, ?_, ?_, ?_, ?_, ?_, ?_, ?_, statusWord_reserved _,
      (statusWord_cause _).trans rfl, statusWord_failPhase _, fun i hi => ?_⟩
    case refine_12 => rw [BitVec.getLsbD_setWidth, statusWord_high _ hi, Bool.and_false]
    all_goals simp [-BitVec.getLsbD_eq_getElem, statusWord_getLsbD, hd]

/-- The three bits of FAULT and nothing else stand in the word of register 0x01 (10_state.md R42). -/
theorem faultWord_layout (s : State) :
    ∃ v : BitVec 64, s.reads 0x01 v ∧ v.getLsbD 0 = s.faultReg.cmdWhileBusy ∧
      v.getLsbD 1 = s.faultReg.lenOverMax ∧ v.getLsbD 2 = s.faultReg.inWriteWhileBusy ∧
      ∀ i, 3 ≤ i → v.getLsbD i = false := by
  refine ⟨_, reads_fault s, ?_, ?_, ?_, fun i hi => ?_⟩ <;>
    rw [BitVec.getLsbD_setWidth, faultWord_getLsbD]
  case refine_4 =>
    repeat rw [if_neg (by omega)]
    exact Bool.and_false _
  all_goals simp

/-! ## Reset -/

/-- Settles O19: the registers of the reset state, number by number. -/
theorem resetObservation : Obligations.ResetObservation := by
  unfold Obligations.ResetObservation
  intro s t h n
  obtain rfl := Host.Outcome.next.inj h
  constructor
  · intro hn
    refine reads_of_value ?_
    unfold registerValue
    generalize n.toNat = k at hn
    interval_cases k
    · exact congrArg (fun w : BitVec 32 => Except.ok (zext64 w.toNat)) (show Status.zero.readWord = 0 by decide)
    · exact congrArg (fun w : BitVec 32 => Except.ok (zext64 w.toNat)) (show FaultReg.zero.word = 0 by decide)
    all_goals rfl
  · intro hlo hhi
    suffices h : ∃ r, registerValue { State.resetOf s.cfg with turns := s.turns } n = .error r from
      h.imp fun r hr => readFaults_of_error hr
    unfold registerValue
    generalize n.toNat = k at hlo hhi
    interval_cases k <;> exact ⟨_, rfl⟩

/-! ## Widths -/

/-- `bitlength(x)` is the least `k` with `x < 2^k` (10_state.md R26). -/
theorem bitlength_le_iff {x k : Nat} : bitlength x ≤ k ↔ x < 2 ^ k :=
  ⟨fun h => (lt_two_pow_bitlength x).trans_le (Nat.pow_le_pow_right two_pos h), bitlength_le_of_lt⟩

/-- A number up to `m` fits the width of `m`. -/
theorem lt_two_pow_bitlength_of_le {x m : Nat} (h : x ≤ m) : x < 2 ^ bitlength m :=
  h.trans_lt (lt_two_pow_bitlength m)

theorem atMost_val {x k : Nat} (h : Poisonable.atMost (.val x) k = true) : x ≤ k := of_decide_eq_true h

/-- Settles O55: the bounds of the invariant, and a number up to `m` fits the width of `m`. -/
theorem registersFitTheirWidths : Obligations.RegistersFitTheirWidths := by
  unfold Obligations.RegistersFitTheirWidths
  refine ⟨fun x k => bitlength_le_iff, fun s hs => ?_⟩
  obtain ⟨-, -, ⟨hlen, hpos, hend, hconsumed, hoffset, hfeed⟩, -⟩ := hs
  have hbits : 8 * s.len ≤ 8 * s.cfg.maxLen := Nat.mul_le_mul_left 8 hlen
  have hval {v : Poisonable Nat} (hv : Poisonable.atMost v s.len = true) (x : Nat) (hx : v = .val x) :
      x < 2 ^ bitlength s.cfg.maxLen :=
    lt_two_pow_bitlength_of_le ((atMost_val (hx ▸ hv)).trans hlen)
  exact ⟨lt_two_pow_bitlength_of_le (hpos.trans hbits), lt_two_pow_bitlength_of_le (hend.trans hbits),
    lt_two_pow_bitlength_of_le hlen, hval hconsumed, hval hoffset, hval hfeed⟩

end Sys2Proof.Proofs.Registers
end

section
/-! What instructions leave unchanged: FAULT over every step but reset, the registers that no phase writes, and the
working header outside the phase named for a field. Each is read off the moves of the instruction's port. -/

namespace Sys2Proof.Proofs.Frames
open Sys2Proof.Machine Sys2Proof.Proofs.Moves Sys2Proof.Proofs.Turns Sys2Proof.Laws.Shape

/-! ## Phases -/

/-- A header phase that goes on ends neither in IDLE nor in P_COMMIT, and is itself before P_PAYLOAD. -/
theorem decodes_phases {s : State} {i : Instr} {n : Nat} {w : Wk} {p : Phase} (h : Decodes s i n w p) :
    p.code ≠ Phase.idle.code ∧ p.code ≠ Phase.pCommit.code ∧ 0 < (phaseCode i).toNat ∧
      (phaseCode i).toNat < 0x21 := by
  cases h <;> decide

theorem decodes_wkFrame {s : State} {i : Instr} {n : Nat} {w : Wk} {p : Phase} (h : Decodes s i n w p) :
    WkFrame i s.wk w := by
  cases h <;> simp [WkFrame]

/-- What no phase writes. -/
theorem phaseMove_frame {i : Instr} {s t : State} (h : PhaseMove i s t) :
    t.cfg = s.cfg ∧ t.cmdStart = s.cmdStart ∧ t.len = s.len ∧ t.faultReg = s.faultReg ∧ t.turns = s.turns ∧
      t.out = s.out ∧ t.inBuf = s.inBuf := by
  cases h <;> subst t <;> exact ⟨rfl, rfl, rfl, rfl, rfl, rfl, rfl⟩

theorem phaseMove_wkFrame {i : Instr} {s t : State} (h : PhaseMove i s t) : WkFrame i s.wk t.wk := by
  cases h with
  | decodes n w p hd _ ht => subst ht; exact decodes_wkFrame hd
  | fails n w r c _ hw _ _ _ ht => subst ht; exact hw
  | _ => subst t; exact .refl i s.wk

/-- Settles O41: what no phase writes, and the registers that P_COMMIT or P_PAYLOAD alone writes, move by move. -/
theorem phaseFrame : Obligations.PhaseFrame := by
  unfold Obligations.PhaseFrame
  intro i s t hport h
  have hm := phaseMove_of_exec hport h
  obtain ⟨hcfg, hstart, hlen, hfault, hturns, hout, hbuf⟩ := phaseMove_frame hm
  refine ⟨hcfg, hstart, hlen, hfault, hturns, hout, fun a => by rw [hbuf], ?_⟩
  cases hm with
  | idles _ ht | decodes _ _ _ _ _ ht => subst ht; simp
  | fails _ _ _ _ _ _ _ _ _ ht => subst ht; simp [Phase.code]
  | pads _ hi _ ht | forwards _ hi ht => subst ht; simp [hi]
  | commits _ hi _ _ _ ht | continues hi _ ht => subst ht; simp [hi, Phase.code, Status.withHeader]

/-! ## The working header -/

theorem hostMove_wk {i : Instr} {s t : State} (h : HostMove i s t) :
    (t.wk = Wk.poison ∧ (i = .reset ∨ ∃ len, i = .parseS len ∨ i = .parseC len)) ∨ t.wk = s.wk := by
  cases h with
  | commandAccepted start len hi _ _ ht => subst ht; exact .inl ⟨rfl, .inr ⟨len, hi⟩⟩
  | resets hi ht => subst ht; exact .inl ⟨rfl, .inl hi⟩
  | _ => subst t; exact .inr rfl

theorem unitMove_wk {i : Instr} {s t : State} {c : Config} (hp : (encode c i).port ≠ .ptsDtsFlags)
    (h : UnitMove i s t) : t.wk = s.wk := by
  cases h with
  | readsFlags f c' hi _ => exact absurd ((encode_port c i).trans ((encode_port c' i).symm.trans hi)) hp
  | _ => subst t; rfl

/-- Settles O42: the frame of each port's moves, by the port the instruction's word stands on. -/
theorem wkWrittenOnlyByItsPhase : Obligations.WkWrittenOnlyByItsPhase := by
  unfold Obligations.WkWrittenOnlyByItsPhase
  intro i s t hport h
  have hsame (hwk : t.wk = s.wk) : WkFrame i s.wk t.wk := hwk ▸ .refl i s.wk
  rcases port_cases (encode s.cfg i).port with hp | hp | hp
  · exact .inr (phaseMove_wkFrame (phaseMove_of_exec hp h))
  · exact (hostMove_wk (hostMove_of_exec hp h)).imp id hsame
  · exact .inr (hsame (unitMove_wk hport (unitMove_of_exec hp h)))

/-! ## FAULT -/

/-- Every bit of FAULT that is set in `f` is set in `g` (10_state.md R42). -/
def FaultsKept (f g : FaultReg) : Prop :=
  (f.cmdWhileBusy = true → g.cmdWhileBusy = true) ∧ (f.lenOverMax = true → g.lenOverMax = true) ∧
    (f.inWriteWhileBusy = true → g.inWriteWhileBusy = true)

theorem FaultsKept.of_eq {f g : FaultReg} (h : g = f) : FaultsKept f g := by subst h; exact ⟨id, id, id⟩

theorem hostMove_faultsKept {i : Instr} {s t : State} (h : HostMove i s t) (hi : i ≠ .reset) :
    FaultsKept s.faultReg t.faultReg := by
  cases h with
  | commandIgnored f _ hf ht =>
    subst ht
    rcases hf with rfl | rfl
    · exact ⟨fun _ => rfl, id, id⟩
    · exact ⟨id, fun _ => rfl, id⟩
  | writeIgnored _ _ _ ht => subst ht; exact ⟨id, id, fun _ => rfl⟩
  | resets hr _ => exact absurd hr hi
  | _ => subst t; exact .of_eq rfl

theorem flagsRow_faultReg {f : BitVec 2} {s t : State} (h : flagsRow f s = .next t) : t.faultReg = s.faultReg := by
  rw [flagsRow, flagsRead_eq] at h
  obtain rfl := Host.Outcome.next.inj h
  split <;> rfl

theorem unitMove_faultReg {i : Instr} {s t : State} (h : UnitMove i s t) : t.faultReg = s.faultReg := by
  cases h with
  | readsFlags _ _ _ h => exact flagsRow_faultReg h
  | _ => subst t; rfl

theorem step_faultsKept {s t : State} (h : step s = .next t) (hr : s.turns.head? ≠ some resetTurn) :
    FaultsKept s.faultReg t.faultReg := by
  cases stepMove_of_step h with
  | pesp i _ _ hm =>
    obtain ⟨-, -, -, hfault, -⟩ := phaseMove_frame hm
    exact .of_eq hfault
  | host w i ht hd hm =>
    refine hostMove_faultsKept (s := dequeued s) hm ?_
    rintro rfl
    exact hr (by rw [ht, word_of_decode_reset hd])
  | unit w i _ hm => exact .of_eq (unitMove_faultReg (s := dequeued s) hm)

/-- Settles O12: the layout of the FAULT word, and each port's moves keep a set bit. -/
theorem faultIsSticky : Obligations.FaultIsSticky := by
  unfold Obligations.FaultIsSticky
  exact ⟨Registers.faultWord_layout, fun s t h hr => step_faultsKept h hr⟩

end Sys2Proof.Proofs.Frames
end

section
/-! What P_COMMIT commits: the header registers that a successful start parse takes from the working header, in both
directions, and the commits without an optional header. -/

namespace Sys2Proof.Proofs.Commit
open Sys2Proof.Machine

theorem hasOptionalHeader_eq_false_iff {t : StreamIdTable} {id : Byte} :
    hasOptionalHeader t id = false ↔ id ∈ t.noHdr := by
  rw [hasOptionalHeader, Bool.not_eq_false', List.contains_iff_mem]

theorem hasOptionalHeader_eq_true_iff {t : StreamIdTable} {id : Byte} :
    hasOptionalHeader t id = true ↔ id ∉ t.noHdr := by
  rw [← hasOptionalHeader_eq_false_iff, Bool.not_eq_false]

/-! ## Reading registers in order -/

theorem bind_ok {ε α β : Type} {x : Except ε α} {f : α → Except ε β} {b : β} (h : (x >>= f) = .ok b) :
    ∃ a, x = .ok a ∧ f a = .ok b := by
  cases x with
  | error e => cases h
  | ok a => exact ⟨a, rfl, h⟩

theorem bind_ite_ok {ε α β : Type} {c : Bool} {x y : Except ε α} {f : α → Except ε β} {b : β}
    (h : (if c = true then x >>= f else y >>= f) = .ok b) :
    ∃ a, (if c = true then x else y) = .ok a ∧ f a = .ok b := by
  cases c <;> exact bind_ok h

theorem valueOf_ok {α : Type} {r : RegName} {v : Poisonable α} {x : α} (h : valueOf r v = .ok x) : v = .val x := by
  cases v with
  | poison => cases h
  | val y => cases h; rfl

/-- A register read only where its field follows is then committed, and is POISON elsewhere. -/
theorem timestamp_ok {α : Type} {r : RegName} {v x : Poisonable α} {b : Bool}
    (h : (if b = true then (valueOf r v).map .val else pure .poison) = .ok x) : x.isVal = b := by
  cases b with
  | false => cases h; rfl
  | true =>
    cases v with
    | poison => cases h
    | val y => cases h; rfl

/-! ## The commit -/

/-- The header registers of a commit that has no optional header (10_state.md R47). -/
abbrev fixedPartHdr (sc : BitVec 24) (id : Byte) (pl : BitVec 16) : Hdr :=
  { Hdr.poison with startCode := .val sc, streamId := .val id, packetLength := .val pl }

/-- What a commit takes from the working header (60_exceptions.md R256, 10_state.md R47 to R51). -/
theorem commitHeader_ok {t : StreamIdTable} {w : Wk} {hc : HeaderCommit} (h : commitHeader t w = .ok hc) :
    ∃ sc pl, w.startCode = .val sc ∧ w.streamId = .val hc.id ∧ hc.hasOpt = hasOptionalHeader t hc.id ∧
      (hc.hasOpt = false → hc.hdr = fixedPartHdr sc hc.id pl ∧ hc.fields = .noTimestamp) ∧
      (hc.hasOpt = true → ∃ f1 f2 hdl f pts dts, w.flags1 = .ok f1 ∧ w.flags2 = .ok f2 ∧ w.ptsDtsFlags = .val f ∧
        hc.fields = timestampFields f ∧ pts.isVal = hc.fields.hasPts ∧ dts.isVal = hc.fields.hasDts ∧
        hc.hdr = { fixedPartHdr sc hc.id pl with
          flags1 := .val f1, flags2 := .val f2, hdl := .val hdl, pts := pts, dts := dts }) := by
  obtain ⟨sc, hsc, h⟩ := bind_ok h
  obtain ⟨id, hid, h⟩ := bind_ok h
  obtain ⟨pl, -, h⟩ := bind_ok h
  split at h
  · rename_i hopt
    obtain ⟨f1, hf1, h⟩ := bind_ok h
    obtain ⟨f2, hf2, h⟩ := bind_ok h
    obtain ⟨hdl, -, h⟩ := bind_ok h
    obtain ⟨f, hf, h⟩ := bind_ok h
    obtain ⟨pts, hpts, h⟩ := bind_ite_ok h
    obtain ⟨dts, hdts, h⟩ := bind_ite_ok h
    obtain rfl := Except.ok.inj h
    refine ⟨sc, pl, valueOf_ok hsc, valueOf_ok hid, hopt.symm, nofun, fun _ => ?_⟩
    exact ⟨f1, f2, hdl, f, pts, dts, hf1, hf2, valueOf_ok hf, rfl, timestamp_ok hpts, timestamp_ok hdts, rfl⟩
  · rename_i hopt
    obtain rfl := Except.ok.inj h
    exact ⟨sc, pl, valueOf_ok hsc, valueOf_ok hid, (Bool.eq_false_iff.mpr hopt).symm, fun _ => ⟨rfl, rfl⟩, nofun⟩

/-- The commit of an id without an optional header (10_state.md R47). -/
theorem commitHeader_of_mem_noHdr {t : StreamIdTable} {w : Wk} {sc : BitVec 24} {id : Byte} {pl : BitVec 16}
    (hsc : w.startCode = .val sc) (hid : w.streamId = .val id) (hpl : w.packetLength = .val pl) (h : id ∈ t.noHdr) :
    commitHeader t w =
      .ok { hdr := fixedPartHdr sc id pl, id := id, hasOpt := false, fields := .noTimestamp } := by
  rw [commitHeader, hsc, hid, hpl]
  change (if hasOptionalHeader t id = true then _ else _) = _
  rw [hasOptionalHeader_eq_false_iff.mpr h, if_neg Bool.false_ne_true]
  rfl

/-! ## P_COMMIT -/

theorem execPCommit_continuation {s : State} (hs : s.cmdStart = false) :
    exec .pCommit s = .next (endParse .ok .none 0 s.cfg.contValid s) := by
  simp [exec, execPCommit, terminate, terminateOk, hs]

theorem execPCommit_of_mem_noHdr {s : State} {sc : BitVec 24} {id : Byte} {pl : BitVec 16} (hs : s.cmdStart = true)
    (hsc : s.wk.startCode = .val sc) (hid : s.wk.streamId = .val id) (hpl : s.wk.packetLength = .val pl)
    (h : id ∈ s.cfg.streamIds.noHdr) :
    exec .pCommit s = .next (endParse .ok .none 0 true
      { s with
        hdr := fixedPartHdr sc id pl,
        status := s.status.withHeader s.cfg.streamIds
          { hdr := fixedPartHdr sc id pl, id := id, hasOpt := false, fields := .noTimestamp } }) := by
  simp [exec, execPCommit, terminate, terminateOk, hs, hid, needs_val, hasOptionalHeader_eq_false_iff.mpr h,
    commitHeader_of_mem_noHdr hsc hid hpl h]

theorem execPCommit_forbidden {s : State} {id : Byte} (hs : s.cmdStart = true) (hid : s.wk.streamId = .val id)
    (h : id ∉ s.cfg.streamIds.noHdr) (hf : s.wk.ptsDtsFlags = .val 0b01) :
    exec .pCommit s = .next (failed .malformed .forbiddenPtsDts s) := by
  simp [exec, execPCommit, terminate_malformed, hs, hid, hf, needs_val, hasOptionalHeader_eq_true_iff.mpr h]

/-- Settles O36: the three cases of P_COMMIT that commit no optional header. -/
theorem commitWithoutOptionalHeader : Obligations.CommitWithoutOptionalHeader := by
  unfold Obligations.CommitWithoutOptionalHeader
  intro s
  refine ⟨fun hs => execPCommit_continuation hs, fun sc id pl hs hsc hid hpl h => ?_,
    fun id hs hid h hf => execPCommit_forbidden hs hid h hf⟩
  rw [execPCommit_of_mem_noHdr hs hsc hid hpl h]
  simp only [endParse, Status.withHeader, TimestampFields.hasPts, TimestampFields.hasDts,
    hasOptionalHeader_eq_false_iff.mpr h]
  rfl

end Sys2Proof.Proofs.Commit
end

section
/-! What a start parse has decoded is kept by every header phase that goes on: each row of `Decodes` writes the field
that its own PHASE code guards in the invariant and leaves the fields guarded by earlier codes, and it moves POS from its
own offset to the offset of the phase it goes to (30_encoding.md R82, R92, R96). -/

namespace Sys2Proof.Proofs.Decoding
open Sys2Proof.Machine Sys2Proof.Proofs.Moves Sys2Proof.Proofs.Turns Sys2Proof.Proofs.Frames

@[simp] theorem isVal_val {α : Type} (v : α) : (Poisonable.val v).isVal = true := rfl

@[simp] theorem isVal_poison {α : Type} : (Poisonable.poison : Poisonable α).isVal = false := rfl

theorem eq_poison_of_isVal {α : Type} {v : Poisonable α} (h : v.isVal = false) : v = .poison := by
  cases v with
  | poison => rfl
  | val x => cases h

/-- The state after a header phase that goes on. -/
abbrev decoded (s : State) (n : Nat) (w : Wk) (p : Phase) : State := ((s.advance n).setWk w).goto p

section
variable {s : State} {i : Instr} {n : Nat} {w : Wk} {p : Phase}

theorem decodes_wkHasOpt (hd : Decodes s i n w p) (hi : i ≠ .pSid) : (decoded s n w p).wkHasOpt = s.wkHasOpt := by
  cases hd with
  | sid => exact absurd rfl hi
  | _ => rfl

theorem decodes_wkFields (hd : Decodes s i n w p) (hi : i ≠ .pPdf) : (decoded s n w p).wkFields = s.wkFields := by
  cases hd with
  | pdf => exact absurd rfl hi
  | _ => rfl

/-- P_LEN goes to P_FIXED exactly for an id with an optional header. -/
theorem decodes_of_pLen (hd : Decodes s i n w p) (hi : phaseCode i = Phase.pLen.code) :
    (p = .pFixed ∧ s.wkHasOpt = true) ∨ (p = .pPayload ∧ s.wkHasOpt = false) := by
  cases hd with
  | lenOpt v h => exact .inl ⟨rfl, h⟩
  | lenNoOpt v h => exact .inr ⟨rfl, h⟩
  | _ => exact absurd hi (by decide)

/-- The fixed part, row by row: a field of it is written by its own phase or already there. -/
theorem decodes_fixedPart (hd : Decodes s i n w p) (hc : s.phase = phaseCode i) (h : s.fixedPartInv) :
    (decoded s n w p).fixedPartInv := by
  have hopt := decodes_wkHasOpt hd
  cases hd <;> simp_all [phaseCode, encode, phaseCodeWord, Phase.code, State.past, decoded, State.fixedPartInv]

/-- The flag cluster, row by row; P_LEN of an id without an optional header, which skips it, is left out. -/
theorem decodes_flagCluster (hd : Decodes s i n w p) (hc : s.phase = phaseCode i)
    (hlen : s.phase = Phase.pLen.code → p = .pFixed) (h : s.past 0x03 → s.flagClusterInv) :
    (decoded s n w p).past 0x03 → (decoded s n w p).flagClusterInv := by
  cases hd with
  | pdf f hf =>
    have hpolicy : s.cfg.forbiddenPolicy = .failFast → f ≠ 0b01 := fun hp h => hf ⟨h, hp⟩
    simp_all [phaseCode, encode, phaseCodeWord, Phase.code, State.past, decoded, State.flagClusterInv]
  | _ => simp_all [phaseCode, encode, phaseCodeWord, Phase.code, State.past, decoded, State.flagClusterInv]

/-- The timestamps, row by row: a phase of a timestamp is entered only where the flags announce it. P_LEN of an id
without an optional header is left out. -/
theorem decodes_timestamps (hd : Decodes s i n w p) (hc : s.phase = phaseCode i)
    (hlen : s.phase = Phase.pLen.code → p = .pFixed) (h : s.past 0x03 → s.timestampsInv) :
    (decoded s n w p).past 0x03 → (decoded s n w p).timestampsInv := by
  have hfields := decodes_wkFields hd
  cases hd <;> simp_all [phaseCode, encode, phaseCodeWord, Phase.code, State.past, decoded, State.timestampsInv,
    TimestampFields.hasPts, TimestampFields.hasDts]

/-- A header phase stands before P_PAYLOAD, so past P_LEN its stream id has an optional header. -/
theorem wkHasOpt_of_past (hd : Decodes s i n w p) (hc : s.phase = phaseCode i) (h : s.decodedInv)
    (hpast : s.past 0x03) : s.wkHasOpt = true := by
  obtain ⟨⟨-, -, -, hopt⟩, -⟩ := h
  obtain ⟨-, -, -, hlt⟩ := decodes_phases hd
  exact hopt hpast (hc ▸ hlt)

theorem flagCluster_of_past (hd : Decodes s i n w p) (hc : s.phase = phaseCode i) (h : s.decodedInv)
    (hpast : s.past 0x03) : s.flagClusterInv :=
  And.left (h.right (wkHasOpt_of_past hd hc h hpast) hpast)

theorem timestamps_of_past (hd : Decodes s i n w p) (hc : s.phase = phaseCode i) (h : s.decodedInv)
    (hpast : s.past 0x03) : s.timestampsInv :=
  And.right (h.right (wkHasOpt_of_past hd hc h hpast) hpast)

theorem decodes_decodedInv (hd : Decodes s i n w p) (hc : s.phase = phaseCode i) (h : s.decodedInv) :
    (decoded s n w p).decodedInv := by
  have ⟨hfixed, _⟩ := h
  refine ⟨decodes_fixedPart hd hc hfixed, fun hopt hpast => ?_⟩
  have hlen (hp : s.phase = Phase.pLen.code) : p = .pFixed := by
    rcases decodes_of_pLen hd (hc ▸ hp) with ⟨hf, -⟩ | ⟨-, hno⟩
    · exact hf
    · have hi : i ≠ .pSid := by
        rintro rfl
        exact absurd (hc.symm.trans hp) (by decide)
      rw [decodes_wkHasOpt hd hi, hno] at hopt
      cases hopt
  exact ⟨decodes_flagCluster hd hc hlen (flagCluster_of_past hd hc h) hpast,
    decodes_timestamps hd hc hlen (timestamps_of_past hd hc h) hpast⟩

/-- POS moves on to the offset of the next phase's field, or to the header's length (30_encoding.md R82, R92). -/
theorem decodes_pos (hd : Decodes s i n w p) (hc : s.phase = phaseCode i) (h : s.decodedInv)
    (hpos : s.pos = s.phasePos) : (decoded s n w p).pos = (decoded s n w p).phasePos := by
  have hopt := decodes_wkHasOpt hd
  have hfields := decodes_wkFields hd
  have hpast := wkHasOpt_of_past hd hc h
  have htimes := timestamps_of_past hd hc h
  cases hd with
  | ptsM2None | dtsM2 =>
    cases hw : s.wkFields <;> simp_all [phaseCode, encode, phaseCodeWord, Phase.code, State.past, decoded,
      State.phasePos, fieldOffset, headerBytes, State.timestampsInv, TimestampFields.hasPts, TimestampFields.hasDts]
  | _ =>
    simp_all [phaseCode, encode, phaseCodeWord, Phase.code, State.past, decoded, State.phasePos, fieldOffset,
      headerBytes]

end

end Sys2Proof.Proofs.Decoding
end

section
/-! Every step keeps the invariant: one lemma per kind of move of a phase and one for the host's moves. -/

namespace Sys2Proof.Proofs.Invariant
open Sys2Proof.Machine Sys2Proof.Proofs.Moves Sys2Proof.Proofs.Turns Sys2Proof.Proofs.Frames Sys2Proof.Proofs.Decoding
open Sys2Proof.Proofs.Commit Sys2Proof.Proofs.Registers

/-! ## What the invariant says of a running parse -/

theorem hdr_eq_poison {h : Hdr} (hsc : h.startCode.isVal = false) (hid : h.streamId.isVal = false)
    (hpl : h.packetLength.isVal = false) (hf1 : h.flags1.isVal = false) (hf2 : h.flags2.isVal = false)
    (hhdl : h.hdl.isVal = false) (hpts : h.pts.isVal = false) (hdts : h.dts.isVal = false) : h = Hdr.poison := by
  obtain ⟨sc, id, pl, f1, f2, hdl, pts, dts⟩ := h
  rw [Hdr.poison, Hdr.mk.injEq]
  exact ⟨eq_poison_of_isVal hsc, eq_poison_of_isVal hid, eq_poison_of_isVal hpl, eq_poison_of_isVal hf1,
    eq_poison_of_isVal hf2, eq_poison_of_isVal hhdl, eq_poison_of_isVal hpts, eq_poison_of_isVal hdts⟩

/-- While a parse runs STATUS is 0 but for BUSY and FED, and no header is committed (10_state.md R32, R46). -/
structure Running (s : State) : Prop where
  busy : s.status.busy = true
  status : s.status = { Status.zero with busy := true, fed := s.status.fed }
  hdr : s.hdr = Hdr.poison

theorem running_of_inv {s : State} (h : s.Inv) (hp : s.phase ≠ Phase.idle.code) : Running s := by
  obtain ⟨-, -, -, ⟨hbusy, hexcl, -⟩, hreg, ⟨hzero, -⟩, -⟩ := h
  have hb : s.status.busy = true := by simpa [hp] using hbusy
  have hst := hzero (by simpa [hb] using hexcl)
  rw [hb] at hst
  obtain ⟨hsc, hid, hpl, hf1, hf2, hhdl, hpts, hdts, -⟩ := hreg
  rw [hst] at hsc hid hpl hf1 hf2 hhdl hpts hdts
  exact ⟨hb, hst, hdr_eq_poison hsc hid hpl hf1 hf2 hhdl hpts hdts⟩

theorem headerCode_ne : ∀ c : BitVec 6, 0 < c.toNat → c.toNat < 0x21 →
    c ≠ Phase.idle.code ∧ c ≠ Phase.pPayload.code ∧ c ≠ Phase.pCommit.code := by decide

/-- Before P_PAYLOAD a running parse is a start parse. -/
theorem startParse_of_inv {s : State} (h : s.Inv) (hlo : 0 < s.phase.toNat) (hhi : s.phase.toNat < 0x21) :
    s.cmdStart = true ∧ s.decodedInv ∧ s.pos = s.phasePos := by
  obtain ⟨hidle, hpay, hcom⟩ := headerCode_ne s.phase hlo hhi
  obtain ⟨-, -, -, -, -, -, -, hprog⟩ := h
  have hrun := hprog hidle
  split at hrun
  · rename_i hs
    obtain ⟨hdec, hpos⟩ := hrun
    exact ⟨hs, hdec, hpos hcom⟩
  · rcases hrun with ⟨hp, -⟩ | hp
    · exact absurd hp hpay
    · exact absurd hp hcom

/-- A phase that can fail runs in a start parse. -/
theorem startParse_of_canFail {s : State} {i : Instr} (h : s.Inv) (hs : Selected i s) (hf : CanFail i s) :
    s.cmdStart = true ∧ s.phase ≠ Phase.idle.code := by
  obtain ⟨hcode, hpad⟩ := hs
  rcases hf with ⟨hlo, hhi⟩ | rfl | ⟨rfl, hstart⟩
  · rw [hcode] at hlo hhi
    obtain ⟨hstart, -⟩ := startParse_of_inv h hlo hhi
    obtain ⟨hidle, -⟩ := headerCode_ne s.phase hlo hhi
    exact ⟨hstart, hidle⟩
  · exact ⟨hpad rfl, hcode ▸ by decide⟩
  · exact ⟨hstart, hcode ▸ by decide⟩

/-! ## Moves of a phase -/

theorem code_le_pCommit (p : Phase) : p.code.toNat ≤ 0x22 := by cases p <;> decide

theorem advance_le {s : State} {n : Nat} (hpos : s.pos ≤ 8 * s.len) (hn : n = 0 ∨ s.pos + n ≤ 8 * s.len) :
    s.pos + n ≤ 8 * s.len := by
  rcases hn with rfl | hn
  · exact hpos
  · exact hn

/-- A header phase that goes on: it has decoded its field, and POS is the next phase's. -/
theorem inv_decoded {s : State} {i : Instr} {n : Nat} {w : Wk} {p : Phase} (h : s.Inv) (hs : Selected i s)
    (hd : Decodes s i n w p) (hn : n = 0 ∨ s.pos + n ≤ 8 * s.len) : (decoded s n w p).Inv := by
  obtain ⟨hidle, hcommit, hlo, hhi⟩ := decodes_phases hd
  obtain ⟨hcode, -⟩ := hs
  rw [hcode] at hlo hhi
  obtain ⟨hstart, hdec, hp⟩ := startParse_of_inv h hlo hhi
  obtain ⟨hne, -, hnc⟩ := headerCode_ne s.phase hlo hhi
  have hrun := running_of_inv h hne
  obtain ⟨hcfg, hmem, ⟨hlen, hpos, hbounds⟩, ⟨-, hexcl, -, hturns⟩, hreg, hver, hpay, -⟩ := h
  exact ⟨hcfg, hmem, ⟨hlen, advance_le hpos hn, hbounds⟩,
    ⟨hrun.busy.trans (decide_eq_true hidle).symm, hexcl, code_le_pCommit p, hturns⟩, hreg, hver,
    fun hb => (if_neg hcommit).mpr ((if_neg hnc).mp (hpay hb)),
    fun _ => (if_pos hstart).mpr
      ⟨decodes_decodedInv hd hcode.symm hdec, fun _ => decodes_pos hd hcode.symm hdec hp⟩⟩

/-- A failure ends the parse with the cause of its result, and leaves the registers as they are. -/
theorem inv_failed {s : State} {i : Instr} {n : Nat} {w : Wk} {r : Result} {c : Cause} (h : s.Inv)
    (hs : Selected i s) (hf : CanFail i s) (hn : n = 0 ∨ s.pos + n ≤ 8 * s.len) (hc : c.resultOf = r)
    (hr : r ≠ .ok) : (failed r c ((s.advance n).setWk w)).Inv := by
  obtain ⟨hstart, hne⟩ := startParse_of_canFail h hs hf
  have hrun := running_of_inv h hne
  have hhdr : s.status.hdrPresent = false := by rw [hrun.status]; rfl
  obtain ⟨hcfg, hmem, ⟨hlen, hpos, -, hbounds⟩, ⟨-, -, -, hturns⟩, hreg, -⟩ := h
  have hend := advance_le hpos hn
  refine ⟨hcfg, hmem, ⟨hlen, hend, hend, hbounds⟩, ⟨rfl, nofun, code_le_pCommit .idle, hturns⟩, hreg,
    ⟨nofun, fun _ => ⟨hc, ?_, fun h => ?_, ?_, ?_⟩⟩, nofun, fun h => absurd rfl h⟩
  · exact iff_of_false hne hr
  · exact absurd (hstart.symm.trans h) (by decide)
  · simp [hstart, hhdr, hr]
  · simp [hstart, hr]

theorem bytesLeft_le {s : State} {n : Nat} (h : n ≤ bytesLeft s) (hpos : s.pos ≤ 8 * s.len) :
    s.pos + 8 * n ≤ 8 * s.len := by
  unfold bytesLeft at h
  omega

/-- Past P_EXTCHK nothing that a start parse has decoded depends on the phase. -/
theorem decodedInv_pCommit {s t : State} (h : s.decodedInv) (hp : s.phase = Phase.pPayload.code)
    (hp' : t.phase = Phase.pCommit.code) (hw : t.wk = s.wk) (hc : t.cfg = s.cfg) : t.decodedInv := by
  simp_all [State.decodedInv, State.fixedPartInv, State.flagClusterInv, State.timestampsInv, State.past, Phase.code,
    State.wkHasOpt, State.wkFields]

/-- What progress demands in P_COMMIT, from what it demands in P_PAYLOAD. -/
theorem progressInv_pCommit {s t : State} (h : s.progressInv) (hp : s.phase = Phase.pPayload.code)
    (hp' : t.phase = Phase.pCommit.code) (hw : t.wk = s.wk) (hc : t.cfg = s.cfg) (hs : t.cmdStart = s.cmdStart) :
    t.progressInv := by
  intro _
  have hprog := h (hp ▸ by decide)
  split
  · rename_i hstart
    rw [if_pos (hs ▸ hstart)] at hprog
    obtain ⟨hdec, -⟩ := hprog
    exact ⟨decodedInv_pCommit hdec hp hp' hw hc, fun hne => absurd hp' hne⟩
  · exact .inr hp'

/-- The padding branch counts its bytes and forwards nothing (43_payload_result.md R224). -/
theorem inv_padded {s : State} {n : BitVec 16} (h : s.Inv) (hp : s.phase = Phase.pPayload.code)
    (hn : n.toNat ≤ bytesLeft s) :
    ({ s.advance (8 * n.toNat) with consumed := .val n.toNat }.goto .pCommit).Inv := by
  have hrun := running_of_inv h (hp ▸ by decide)
  obtain ⟨hcfg, hmem, ⟨hlen, hpos, hend, -, hfeed⟩, ⟨-, hexcl, -, hturns⟩, hreg, hver, -, hprog⟩ := h
  have hfit := bytesLeft_le hn hpos
  have hcons : n.toNat ≤ s.len := by omega
  exact ⟨hcfg, hmem, ⟨hlen, hfit, hend, decide_eq_true hcons, hfeed⟩,
    ⟨hrun.busy, hexcl, code_le_pCommit .pCommit, hturns⟩, hreg, hver, fun _ => rfl,
    progressInv_pCommit hprog hp rfl rfl rfl rfl⟩

/-- The forwarding branch sets FED and the feed registers together (10_state.md R38, R45). -/
theorem inv_forwarded {s : State} {bytes : List Byte} (h : s.Inv) (hp : s.phase = Phase.pPayload.code) :
    ({ s.emit bytes with
      status := { s.status with fed := true },
      feedOffset := .val (s.pos / 8), feedLen := .val (s.len - s.pos / 8), consumed := .val (s.len - s.pos / 8),
      pos := 8 * s.len }.goto .pCommit).Inv := by
  have hrun := running_of_inv h (hp ▸ by decide)
  obtain ⟨hcfg, hmem, ⟨hlen, hpos, hend, -⟩, ⟨-, hexcl, -, hturns⟩, hreg, ⟨hzero, hdone⟩, -, hprog⟩ := h
  obtain ⟨hsc, hid, hpl, hf1, hf2, hhdl, hpts, hdts, -, -, hvalues⟩ := hreg
  have hoff : s.pos / 8 ≤ s.len := by omega
  have hrest : s.len - s.pos / 8 ≤ s.len := Nat.sub_le _ _
  refine ⟨hcfg, hmem, ⟨hlen, le_rfl, hend, decide_eq_true hrest, decide_eq_true hoff, decide_eq_true hrest⟩,
    ⟨hrun.busy, hexcl, code_le_pCommit .pCommit, hturns⟩,
    ⟨hsc, hid, hpl, hf1, hf2, hhdl, hpts, hdts, rfl, rfl, hvalues⟩, ⟨fun hd => ?_, hdone⟩, fun _ => rfl,
    progressInv_pCommit hprog hp rfl rfl rfl rfl⟩
  exact congrArg (fun st : Status => { st with fed := true }) (hzero hd)

/-- A continuation parse commits no header and takes VALID from CONT_VALID (10_state.md R34, R35). -/
theorem inv_continued {s : State} (h : s.Inv) (hne : s.phase ≠ Phase.idle.code) (hs : s.cmdStart = false) :
    (endParse .ok .none 0 s.cfg.contValid s).Inv := by
  have hrun := running_of_inv h hne
  have hhdr : s.status.hdrPresent = false := by rw [hrun.status]; rfl
  obtain ⟨hcfg, hmem, ⟨hlen, hpos, -, hbounds⟩, ⟨-, -, -, hturns⟩, hreg, -⟩ := h
  refine ⟨hcfg, hmem, ⟨hlen, hpos, hpos, hbounds⟩, ⟨rfl, nofun, code_le_pCommit .idle, hturns⟩, hreg,
    ⟨nofun, fun _ => ⟨rfl, iff_of_true rfl rfl, fun _ => rfl, ?_, ?_⟩⟩, nofun, fun h => absurd rfl h⟩
  · simp [hs, hhdr]
  · simp [hs]

/-! ## The commit of a header -/

theorem flags1_front : ∀ (fx scr : BitVec 2) (pri dai cpy ooc : BitVec 1),
    (fx ++ scr ++ pri ++ dai ++ cpy ++ ooc : Byte).extractLsb' 6 2 = fx := by decide

theorem flags2_parts : ∀ (f : BitVec 2) (e : BitVec 6),
    (f ++ e : Byte).extractLsb' 6 2 = f ∧ (f ++ e : Byte).extractLsb' 0 6 = e := by decide

/-- HDR_FLAGS1 has the checked fixed bits in front (10_state.md R48). -/
theorem flags1_fixed {w : Wk} {fx : BitVec 2} {b : Byte} (hfx : w.fixed = .val fx) (h : w.flags1 = .ok b) :
    b.extractLsb' 6 2 = fx := by
  obtain ⟨fx', hfx', h⟩ := bind_ok h
  obtain ⟨scr, -, h⟩ := bind_ok h
  obtain ⟨pri, -, h⟩ := bind_ok h
  obtain ⟨dai, -, h⟩ := bind_ok h
  obtain ⟨cpy, -, h⟩ := bind_ok h
  obtain ⟨ooc, -, h⟩ := bind_ok h
  obtain rfl := Except.ok.inj h
  obtain rfl : fx = fx' := Poisonable.val.inj (hfx.symm.trans (valueOf_ok hfx'))
  exact flags1_front fx scr pri dai cpy ooc

/-- HDR_FLAGS2 is PTS_DTS_flags in front of the six extension flags (10_state.md R49). -/
theorem flags2_eq {w : Wk} {f : BitVec 2} {e : BitVec 6} {b : Byte} (hf : w.ptsDtsFlags = .val f)
    (he : w.extFlags = .ok e) (h : w.flags2 = .ok b) : b.extractLsb' 6 2 = f ∧ b.extractLsb' 0 6 = e := by
  obtain ⟨f', hf', h⟩ := bind_ok h
  obtain ⟨e', he', h⟩ := bind_ok h
  obtain rfl := Except.ok.inj h
  obtain rfl : f = f' := Poisonable.val.inj (hf.symm.trans (valueOf_ok hf'))
  obtain rfl : e = e' := Except.ok.inj (he.symm.trans he')
  exact flags2_parts f e

/-- The state that a successful start parse leaves (60_exceptions.md R256). -/
abbrev committed (s : State) (hc : HeaderCommit) : State :=
  endParse .ok .none 0 true { s with hdr := hc.hdr, status := s.status.withHeader s.cfg.streamIds hc }

/-- A committed header's registers are what R47 to R51 say they always are: the checks of the header phases have been
passed by every header that reaches P_COMMIT with flags other than 0b01. -/
theorem registersInv_committed {s : State} {hc : HeaderCommit} (hfeed : s.feedOffset.isVal = s.status.fed)
    (hfeed' : s.feedLen.isVal = s.status.fed) (hp : s.phase = Phase.pCommit.code) (hdec : s.decodedInv)
    (hw : commitHeader s.cfg.streamIds s.wk = .ok hc) (hf : s.wkHasOpt = true → s.wk.ptsDtsFlags ≠ .val 0b01) :
    (committed s hc).registersInv := by
  obtain ⟨sc, pl, hsc, hid, hopt, hfixed, hfull⟩ := commitHeader_ok hw
  obtain ⟨⟨hstart, -⟩, hcluster⟩ := hdec
  have hpast {k : Nat} (hk : k < 0x22) : s.past k := by rw [State.past, hp]; exact hk
  obtain rfl : sc = 0x000001 := Poisonable.val.inj (hsc.symm.trans (hstart (hpast (by decide))))
  have hwk := (wkHasOpt_of_streamId hid).trans hopt.symm
  cases ho : hc.hasOpt with
  | false =>
    obtain ⟨hhdr, hfields⟩ := hfixed ho
    simp_all [State.registersInv, committed, Status.withHeader, Hdr.poison, Poisonable.holds, State.classBitsInv,
      TimestampFields.hasPts, TimestampFields.hasDts]
  | true =>
    obtain ⟨f1, f2, hdl, f, pts, dts, hf1, hf2, hflags, hfields, hpts, hdts, hhdr⟩ := hfull ho
    obtain ⟨⟨hfx, -⟩, -, -, -, -, hext⟩ := hcluster (hwk.trans ho) (hpast (by decide))
    have hb1 := flags1_fixed (hfx (hpast (by decide))) hf1
    obtain ⟨hb2, hb2'⟩ := flags2_eq hflags (hext (hpast (by decide))) hf2
    have hne : f ≠ 0b01 := fun h => hf (hwk.trans ho) (h ▸ hflags)
    simp_all [State.registersInv, committed, Status.withHeader, Hdr.poison, Poisonable.holds, State.classBitsInv]

theorem inv_committed {s : State} {hc : HeaderCommit} (h : s.Inv) (hp : s.phase = Phase.pCommit.code)
    (hs : s.cmdStart = true) (hw : commitHeader s.cfg.streamIds s.wk = .ok hc)
    (hf : s.wkHasOpt = true → s.wk.ptsDtsFlags ≠ .val 0b01) : (committed s hc).Inv := by
  obtain ⟨hcfg, hmem, ⟨hlen, hpos, -, hbounds⟩, ⟨-, -, -, hturns⟩, hreg, -, -, hprog⟩ := h
  obtain ⟨-, -, -, -, -, -, -, -, hoff, hfeed, -⟩ := hreg
  obtain ⟨hdec, -⟩ := (if_pos hs).mp (hprog (hp ▸ by decide))
  refine ⟨hcfg, hmem, ⟨hlen, hpos, hpos, hbounds⟩, ⟨rfl, nofun, code_le_pCommit .idle, hturns⟩,
    registersInv_committed hoff hfeed hp hdec hw hf,
    ⟨nofun, fun _ => ⟨rfl, iff_of_true rfl rfl, fun _ => rfl, ?_, ?_⟩⟩, nofun, fun h => absurd rfl h⟩
  · simp [hs, Status.withHeader]
  · simp [hs]

/-- Every move of the phase in PHASE keeps the invariant. -/
theorem inv_phaseMove {i : Instr} {s t : State} (h : s.Inv) (hs : Selected i s) (hm : PhaseMove i s t) : t.Inv := by
  have ⟨hcode, _⟩ := hs
  cases hm with
  | idles _ ht => exact ht ▸ h
  | decodes n w p hd hn ht => exact ht ▸ inv_decoded h hs hd hn
  | fails n w r c hf _ hn hc hr ht => exact ht ▸ inv_failed h hs hf hn hc hr
  | pads n hi hn ht =>
    subst hi
    exact ht ▸ inv_padded h hcode.symm hn
  | forwards bytes hi ht =>
    subst hi
    exact ht ▸ inv_forwarded h hcode.symm
  | commits hc hi hstart hw hf ht =>
    subst hi
    exact ht ▸ inv_committed h hcode.symm hstart hw hf
  | continues hi hstart ht =>
    subst hi
    exact ht ▸ inv_continued h (hcode ▸ by decide) hstart

/-! ## Moves of the host -/

/-- With nothing committed, nothing forwarded and STATUS 0 but for BUSY, the registers agree. -/
theorem registersInv_clear {s : State} {b : Bool} (hst : s.status = { Status.zero with busy := b })
    (hhdr : s.hdr = Hdr.poison) (hoff : s.feedOffset = .poison) (hfeed : s.feedLen = .poison) : s.registersInv := by
  simp [State.registersInv, State.classBitsInv, Poisonable.holds, hst, hhdr, hoff, hfeed, Status.zero, Hdr.poison]

theorem verdictInv_clear {s : State} {b : Bool} (hst : s.status = { Status.zero with busy := b }) : s.verdictInv := by
  simp [State.verdictInv, hst, Status.zero]

/-- In P_START nothing is decoded yet. -/
theorem decodedInv_pStart {s : State} (hp : s.phase = Phase.pStart.code) : s.decodedInv := by
  simp [State.decodedInv, State.fixedPartInv, State.past, hp, Phase.code]

theorem progressInv_accept (start : Bool) (len : Nat) (s : State) : (accept start len s).progressInv := by
  intro _
  cases start with
  | false => exact .inl ⟨rfl, rfl⟩
  | true => exact ⟨decodedInv_pStart rfl, fun _ => rfl⟩

theorem inv_accepted {s : State} {start : Bool} {len : Nat} (h : s.Inv) (hl : len ≤ s.cfg.maxLen) :
    (accept start len s).Inv := by
  obtain ⟨hcfg, hmem, -, ⟨-, -, -, hturns⟩, -⟩ := h
  refine ⟨hcfg, hmem, ⟨hl, Nat.zero_le _, Nat.zero_le _, rfl, rfl, rfl⟩,
    ⟨?_, nofun, code_le_pCommit _, hturns⟩, registersInv_clear rfl rfl rfl rfl, verdictInv_clear rfl, fun _ => ?_,
    progressInv_accept start len s⟩
  · cases start <;> rfl
  · cases start <;> exact ⟨rfl, rfl⟩

theorem inv_reset {c : Config} (hcfg : c.wf = true) {l : List Turn} (hl : l.all (fun t => !t.isUnit) = true) :
    ({ State.resetOf c with turns := l } : State).Inv :=
  ⟨hcfg, ⟨.nil, nofun⟩, ⟨Nat.zero_le _, le_rfl, le_rfl, rfl, rfl, rfl⟩, ⟨rfl, nofun, code_le_pCommit .idle, hl⟩,
    registersInv_clear rfl rfl rfl rfl, verdictInv_clear rfl, nofun, fun h => absurd rfl h⟩

/-- Every move of the host keeps the invariant. -/
theorem inv_hostMove {i : Instr} {s t : State} (h : s.Inv) (hm : HostMove i s t) : t.Inv := by
  cases hm with
  | commandIgnored _ _ _ ht | writeIgnored _ _ _ ht | answers _ ht => exact ht ▸ h
  | commandAccepted start len _ _ hl ht => exact ht ▸ inv_accepted h hl
  | writes a b _ hb ha ht =>
    subst ht
    obtain ⟨hcfg, ⟨hwf, hin⟩, hrest⟩ := h
    refine ⟨hcfg, ⟨Memory.write_wf hwf a b, fun x hx => ?_⟩, hrest⟩
    rcases Memory.mem_write hx with rfl | hx
    · exact ha
    · exact hin x hx
  | resets _ ht =>
    subst ht
    obtain ⟨hcfg, -, -, ⟨-, -, -, hturns⟩, -⟩ := h
    exact inv_reset hcfg hturns

/-! ## Steps -/

theorem inv_dequeued {s : State} (h : s.Inv) : (dequeued s).Inv := by
  obtain ⟨hcfg, hmem, hbounds, ⟨hbusy, hexcl, hcode, hturns⟩, hrest⟩ := h
  refine ⟨hcfg, hmem, hbounds, ⟨hbusy, hexcl, hcode, ?_⟩, hrest⟩
  rw [List.all_eq_true] at hturns ⊢
  exact fun x hx => hturns x (List.mem_of_mem_tail hx)

/-- Settles O44: the moves of PESP and of the host keep the invariant, and it lists no turn of a unit. -/
theorem stepKeepsTheInvariant : Obligations.StepKeepsTheInvariant := by
  unfold Obligations.StepKeepsTheInvariant
  intro s t h hstep
  cases stepMove_of_step hstep with
  | pesp i _ hs hm => exact inv_phaseMove (inv_dequeued h) hs hm
  | host w i _ _ hm => exact inv_hostMove (inv_dequeued h) hm
  | unit w i ht _ =>
    obtain ⟨-, -, -, ⟨-, -, -, hturns⟩, -⟩ := h
    have := List.all_eq_true.mp hturns _ (List.mem_of_mem_head? ht)
    cases this

end Sys2Proof.Proofs.Invariant
end

section
/-! Where a turn of PESP goes and what a termination records, read off the moves of the phase in PHASE under the
invariant. -/

namespace Sys2Proof.Proofs.Paths
open Sys2Proof.Machine Sys2Proof.Proofs.Moves Sys2Proof.Proofs.Turns Sys2Proof.Proofs.Frames Sys2Proof.Proofs.Decoding
open Sys2Proof.Proofs.Invariant

/-! ## Edges -/

/-- The edges of 30_encoding.md R96 and R97 that do not end the parse, by PHASE code. -/
def Edge (j k : Nat) : Prop :=
  (j, k) ∈ ([(0x03, 0x21), (0x11, 0x20), (0x18, 0x20)] : List (Nat × Nat)) ∨ (k = j + 1 ∧ j ≠ 0x22)

theorem edge_of_decodes {s : State} {i : Instr} {n : Nat} {w : Wk} {p : Phase} (hd : Decodes s i n w p) :
    Edge (phaseCode i).toNat p.code.toNat := by
  unfold Edge
  cases hd <;> decide

theorem edge_pCommit {s : State} (hp : s.phase = Phase.pPayload.code) :
    Edge s.phase.toNat Phase.pCommit.code.toNat := by
  rw [hp]
  exact .inr (by decide)

theorem edge_of_phaseMove {i : Instr} {s t : State} (hs : Selected i s) (hne : s.phase ≠ 0x00)
    (hm : PhaseMove i s t) : t.phase = 0x00 ∨ Edge s.phase.toNat t.phase.toNat := by
  obtain ⟨hcode, -⟩ := hs
  cases hm with
  | idles hi _ => subst hi; exact absurd hcode.symm hne
  | decodes n w p hd _ ht => subst ht; exact .inr (hcode ▸ edge_of_decodes hd)
  | pads n hi _ ht | forwards bytes hi ht => subst hi ht; exact .inr (edge_pCommit hcode.symm)
  | fails _ _ _ _ _ _ _ _ _ ht | commits _ _ _ _ _ ht | continues _ _ ht => subst ht; exact .inl rfl

/-- A move to another phase than IDLE and P_COMMIT is a header phase that goes on. -/
theorem decodes_of_phaseMove {i : Instr} {s t : State} (hs : Selected i s) (hne : s.phase ≠ 0x00)
    (hidle : t.phase ≠ 0x00) (hcommit : t.phase ≠ 0x22) (hm : PhaseMove i s t) :
    ∃ n w p, Decodes s i n w p ∧ t.phase = p.code := by
  obtain ⟨hcode, -⟩ := hs
  cases hm with
  | idles hi _ => subst hi; exact absurd hcode.symm hne
  | decodes n w p hd _ ht => subst ht; exact ⟨n, w, p, hd, rfl⟩
  | pads n hi _ ht | forwards bytes hi ht => subst ht; exact absurd rfl hcommit
  | fails _ _ _ _ _ _ _ _ _ ht | commits _ _ _ _ _ ht | continues _ _ ht => subst ht; exact absurd rfl hidle

/-- P_HDL goes to P_EXTCHK only where no timestamp follows. -/
theorem wkFields_of_pHdl {s : State} {i : Instr} {n : Nat} {w : Wk} {p : Phase} (hd : Decodes s i n w p)
    (hi : phaseCode i = Phase.pHdl.code) (hp : p.code = Phase.pExtchk.code) : s.wkFields = .noTimestamp := by
  cases hd with
  | hdlNone v h => exact h
  | hdlPts => exact absurd hp (by decide)
  | _ => exact absurd hi (by decide)

/-- P_PTS_M2 goes to P_EXTCHK only where no DTS follows. -/
theorem hasDts_of_pPtsM2 {s : State} {i : Instr} {n : Nat} {w : Wk} {p : Phase} (hd : Decodes s i n w p)
    (hi : phaseCode i = Phase.pPtsM2.code) (hp : p.code = Phase.pExtchk.code) : s.wkFields.hasDts = false := by
  cases hd with
  | ptsM2None v h => exact h
  | ptsM2Dts => exact absurd hp (by decide)
  | _ => exact absurd hi (by decide)

theorem pos_le_of_phaseMove {i : Instr} {s t : State} (h : s.Inv) (hm : PhaseMove i s t) : s.pos ≤ t.pos := by
  obtain ⟨-, -, ⟨-, hpos, -⟩, -⟩ := h
  cases hm with
  | forwards _ _ ht => subst ht; exact hpos
  | idles _ ht | decodes _ _ _ _ _ ht | fails _ _ _ _ _ _ _ _ _ ht | pads _ _ _ ht | commits _ _ _ _ _ ht
  | continues _ _ ht => subst ht; simp

/-- A parse that has passed P_HDL on the way to a timestamp has a PTS. -/
theorem hasPts_of_inv {s : State} (h : s.Inv) (hp : s.phase = Phase.pPtsM2.code) : s.wkFields.hasPts = true := by
  obtain ⟨-, ⟨⟨-, -, -, hopt⟩, hdec⟩, -⟩ := startParse_of_inv h (hp ▸ by decide) (hp ▸ by decide)
  have hpast {k : Nat} (hk : k < 0x18) : s.past k := by rw [State.past, hp]; exact hk
  obtain ⟨-, hpts, -⟩ := hdec (hopt (hpast (by decide)) (hp ▸ by decide)) (hpast (by decide))
  exact hpts (hpast (by decide)) (hp ▸ by decide)

theorem eq_pts_of_has {f : TimestampFields} (hp : f.hasPts = true) (hd : f.hasDts = false) : f = .pts := by
  cases f with
  | pts => rfl
  | noTimestamp => cases hp
  | ptsDts => cases hd

/-- Settles O47: each move of the phase in PHASE follows an edge or ends the parse, and the branch of an edge with two
is the one its condition selects. -/
theorem phasesFollowThePaths : Obligations.PhasesFollowThePaths := by
  unfold Obligations.PhasesFollowThePaths
  intro s t h hturn hne hstep
  obtain ⟨i, hs, hm⟩ := phaseMove_of_step hturn hstep
  have ⟨(hcode : phaseCode i = s.phase), _⟩ := hs
  have hinv := inv_dequeued h
  obtain ⟨-, -, ⟨-, hpos, -⟩, -⟩ := inv_phaseMove hinv hs hm
  have hedge := edge_of_phaseMove (s := dequeued s) hs hne hm
  have hrow (hidle : t.phase ≠ 0x00) (hcommit : t.phase ≠ 0x22) := decodes_of_phaseMove hs hne hidle hcommit hm
  refine ⟨pos_le_of_phaseMove (s := dequeued s) hinv hm, hpos, hedge, fun hp ht => ?_, fun hp ht => ?_,
    fun hp ht => ?_, fun hp ht => ?_, fun hp => ?_⟩
  · obtain ⟨n, w, p, hd, htp⟩ := hrow (ht ▸ by decide) (ht ▸ by decide)
    rcases decodes_of_pLen hd (hcode.trans hp) with ⟨rfl, -⟩ | ⟨-, hopt⟩
    · exact absurd (ht.symm.trans htp) (by decide)
    · exact hopt
  · obtain ⟨n, w, p, hd, htp⟩ := hrow (ht ▸ by decide) (ht ▸ by decide)
    rcases decodes_of_pLen hd (hcode.trans hp) with ⟨-, hopt⟩ | ⟨rfl, -⟩
    · exact hopt
    · exact absurd (ht.symm.trans htp) (by decide)
  · obtain ⟨n, w, p, hd, htp⟩ := hrow (ht ▸ by decide) (ht ▸ by decide)
    exact wkFields_of_pHdl (s := dequeued s) hd (hcode.trans hp) (htp.symm.trans ht)
  · obtain ⟨n, w, p, hd, htp⟩ := hrow (ht ▸ by decide) (ht ▸ by decide)
    exact eq_pts_of_has (hasPts_of_inv h hp)
      (hasDts_of_pPtsM2 (s := dequeued s) hd (hcode.trans hp) (htp.symm.trans ht))
  · refine hedge.resolve_right fun hedge => ?_
    simp [Edge, hp] at hedge

/-! ## Terminations -/

/-- While a parse runs no header is present, and no presence or class bit is set. -/
theorem noHeader_of_running {s : State} (h : Running s) :
    s.status.hdrPresent = false ∧ s.hdr = Hdr.poison ∧ s.status.optPresent = false ∧ s.status.ptsPresent = false ∧
      s.status.dtsPresent = false ∧ s.status.isAudio = false ∧ s.status.isVideo = false ∧
      s.status.isPadding = false ∧ s.status.hasOpt = false := by
  refine ⟨?_, h.hdr, ?_⟩
  all_goals rw [h.status]
  · rfl
  · exact ⟨rfl, rfl, rfl, rfl, rfl, rfl, rfl⟩

/-- Settles O52: the moves that end in IDLE are a failure, the commit of a start parse and the end of a continuation. -/
theorem terminationRecords : Obligations.TerminationRecords := by
  unfold Obligations.TerminationRecords
  intro s t h hturn hne hstep hidle
  obtain ⟨i, hs, hm⟩ := phaseMove_of_step hturn hstep
  obtain ⟨hbit, hnone⟩ := noHeader_of_running (running_of_inv h hne)
  have ⟨(hcode : phaseCode i = s.phase), _⟩ := hs
  cases hm with
  | idles hi _ => subst hi; exact absurd hcode.symm hne
  | decodes n w p hd _ ht =>
    subst ht
    obtain ⟨hp, -⟩ := decodes_phases hd
    exact absurd hidle hp
  | pads n _ _ ht | forwards bytes _ ht =>
    subst ht
    exact absurd hidle (show Phase.pCommit.code ≠ 0x00 by decide)
  | fails n w r c _ _ _ hc hr ht =>
    subst ht
    exact ⟨rfl, rfl, rfl, hc, (if_neg hr).symm, (if_neg hr).symm, by simp [hbit, hr], fun _ => hnone, rfl, rfl, rfl,
      rfl⟩
  | commits hc _ hstart _ _ ht =>
    subst ht
    have hstart' : s.cmdStart = true := hstart
    exact ⟨rfl, rfl, rfl, rfl, rfl, (if_pos hstart').symm, by simp [Status.withHeader, hstart'], nofun, rfl, rfl, rfl,
      rfl⟩
  | continues _ hstart ht =>
    subst ht
    have hstart' : s.cmdStart = false := hstart
    exact ⟨rfl, rfl, rfl, rfl, rfl, by simp [hstart'], by simp [hbit, hstart'], fun _ => hnone, rfl, rfl, rfl, rfl⟩

end Sys2Proof.Proofs.Paths
end

section
/-! The input buffer `IN` as the host writes it and as every instruction leaves it (20_memory.md R60 to R62, R69):
the three answers of InWrite, and the frame of `IN` read off the moves of each port. -/

namespace Sys2Proof.Proofs.InputBuffer
open Sys2Proof.Machine Sys2Proof.Proofs.Moves Sys2Proof.Proofs.Turns Sys2Proof.Proofs.Frames

/-! ## InWrite -/

theorem execInWrite_of_maxLen_le {s : State} {a : Nat} (b : Byte) (ha : s.cfg.maxLen ≤ a) :
    exec (.inWrite a b) s = .fault (.hostProtocolInAddr a) := if_pos ha

theorem execInWrite_busy {s : State} {a : Nat} (b : Byte) (ha : a < s.cfg.maxLen) (hb : s.status.busy = true) :
    exec (.inWrite a b) s = .next { s with faultReg := { s.faultReg with inWriteWhileBusy := true } } := by
  rw [exec, execInWrite, if_neg (not_le.mpr ha), if_pos hb]

theorem execInWrite_idle {s : State} {a : Nat} (b : Byte) (ha : a < s.cfg.maxLen) (hb : s.status.busy = false) :
    exec (.inWrite a b) s = .next { s with inBuf := Memory.write s.inBuf a b } := by
  rw [exec, execInWrite, if_neg (not_le.mpr ha), hb, if_neg Bool.false_ne_true]

/-- Settles O7: the three answers of InWrite, with what `Memory.write` does to every read. -/
theorem inWriteStoresOneByte : Obligations.InWriteStoresOneByte := by
  unfold Obligations.InWriteStoresOneByte
  intro s a b
  refine ⟨fun ha hb => ⟨Memory.write s.inBuf a b, execInWrite_idle b ha hb, ?_, fun a' hne => ?_, fun hwf => ?_⟩,
    fun ha hb => execInWrite_busy b ha hb, fun ha _ => execInWrite_of_maxLen_le b ha⟩
  · exact Memory.read_write_same s.inBuf a b
  · exact Memory.read_write_other s.inBuf b hne
  · exact Memory.write_wf hwf a b

/-- Settles O8: the address is looked at before BUSY (notes/assumptions/12.md). -/
theorem inWriteOutOfRangeWhileBusy : Obligations.InWriteOutOfRangeWhileBusy := by
  unfold Obligations.InWriteOutOfRangeWhileBusy
  intro s a b ha _
  exact execInWrite_of_maxLen_le b ha

/-! ## The frame of `IN` -/

theorem flagsRow_inBuf {f : BitVec 2} {s t : State} (h : flagsRow f s = .next t) : t.inBuf = s.inBuf := by
  rw [flagsRow, flagsRead_eq] at h
  obtain rfl := Host.Outcome.next.inj h
  split <;> rfl

theorem unitMove_inBuf {i : Instr} {s t : State} (h : UnitMove i s t) : t.inBuf = s.inBuf := by
  cases h with
  | readsFlags _ _ _ h => exact flagsRow_inBuf h
  | _ => subst t; rfl

theorem phaseMove_inBuf {i : Instr} {s t : State} (h : PhaseMove i s t) : t.inBuf = s.inBuf := by
  obtain ⟨-, -, -, -, -, -, hbuf⟩ := phaseMove_frame h
  exact hbuf

/-- The host's moves on `IN`: RESET clears it, and InWrite sets its own byte while no parse runs. -/
theorem hostMove_inBuf {i : Instr} {s t : State} (h : HostMove i s t) :
    t.inBuf = s.inBuf ∨ i = .reset ∨
      ∃ a b, i = .inWrite a b ∧ s.status.busy = false ∧ t.inBuf = Memory.write s.inBuf a b := by
  cases h with
  | writes a b hi hb _ ht => subst ht; exact .inr (.inr ⟨a, b, hi, hb, rfl⟩)
  | resets hi _ => exact .inr (.inl hi)
  | _ => subst t; exact .inl rfl

/-- A byte that an instruction does not name reads as before. -/
theorem exec_read_frame {i : Instr} {s t : State} {a : Nat} (h : exec i s = .next t)
    (hw : ∀ b, i ≠ .inWrite a b) (hr : i ≠ .reset) : Memory.read t.inBuf a = Memory.read s.inBuf a := by
  rcases port_cases (encode s.cfg i).port with hp | hp | hp
  · rw [phaseMove_inBuf (phaseMove_of_exec hp h)]
  · rcases hostMove_inBuf (hostMove_of_exec hp h) with hbuf | hi | ⟨a', b, hi, -, hbuf⟩
    · rw [hbuf]
    · exact absurd hi hr
    · have hne : a ≠ a' := fun ha => hw b (ha ▸ hi)
      rw [hbuf, Memory.read_write_other _ _ hne]
  · rw [unitMove_inBuf (unitMove_of_exec hp h)]

/-- While a parse runs only RESET touches `IN` (20_memory.md R62, R69). -/
theorem step_inBuf_of_busy {s t : State} (h : step s = .next t) (hb : s.status.busy = true)
    (hr : s.turns.head? ≠ some resetTurn) : t.inBuf = s.inBuf := by
  cases stepMove_of_step h with
  | pesp i _ _ hm => exact phaseMove_inBuf (s := dequeued s) hm
  | host w i ht hd hm =>
    rcases hostMove_inBuf (s := dequeued s) hm with hbuf | rfl | ⟨_, _, _, hidle, -⟩
    · exact hbuf
    · exact absurd (by rw [ht, word_of_decode_reset hd]) hr
    · exact absurd (hb.symm.trans hidle) (by decide)
  | unit w i _ hm => exact unitMove_inBuf (s := dequeued s) hm

/-- Settles O40: the frame of an instruction, and that of a step while BUSY is 1. -/
theorem memoryFrame : Obligations.MemoryFrame := by
  unfold Obligations.MemoryFrame
  exact ⟨fun i s t h a hw hr => exec_read_frame h hw hr, fun s t h hb hr a => by rw [step_inBuf_of_busy h hb hr]⟩

end Sys2Proof.Proofs.InputBuffer
end

section
/-! The Bit Reader's fields (40_bit_reader.md R121 to R123; 20_memory.md R63 to R65): the number of a run of stream bits,
bit by bit and byte by byte, and the four answers of a read of a field. -/

namespace Sys2Proof.Proofs.Reader
open Sys2Proof.Machine

/-! ## Stream bits -/

theorem streamBit_of_read {m : Memory} {i : Nat} {b : Byte} (h : Memory.read m (i / 8) = .val b) :
    streamBit m i = b.getLsbD (7 - i % 8) := by
  simp [streamBit, streamBitOf, h]

/-- The first stream bit of a field is its most significant (20_memory.md R65). -/
theorem streamValue_testBit (m : Memory) (i : Nat) {n k : Nat} (hk : k < n) :
    (streamValue m i n).testBit (n - 1 - k) = streamBit m (i + k) := by
  induction n with
  | zero => omega
  | succ n ih =>
    rw [streamValue, ← Nat.bit_val]
    rcases Nat.lt_succ_iff_lt_or_eq.mp hk with hlt | rfl
    · rw [show n + 1 - 1 - k = (n - 1 - k) + 1 by omega, Nat.testBit_bit_succ, ih hlt]
    · rw [Nat.add_sub_cancel, Nat.sub_self, Nat.testBit_bit_zero]

theorem streamValue_one (m : Memory) (i : Nat) : streamValue m i 1 = (streamBit m i).toNat := by
  simp [streamValue]

/-- A field that straddles two parts takes its high bits from the earlier one. -/
theorem streamValue_add (m : Memory) (i n k : Nat) :
    streamValue m i (n + k) = streamValue m i n * 2 ^ k + streamValue m (i + n) k := by
  induction k with
  | zero => simp [streamValue]
  | succ k ih =>
    rw [← Nat.add_assoc, streamValue, ih, streamValue, Nat.add_assoc i n k, pow_succ]
    ring

/-- Parts that stand side by side in the stream are concatenated. -/
theorem streamValue_append {m : Memory} {i n k : Nat} {x : BitVec n} {y : BitVec k}
    (hx : streamValue m i n = x.toNat) (hy : streamValue m (i + n) k = y.toNat) :
    streamValue m i (n + k) = (x ++ y).toNat := by
  rw [streamValue_add, hx, hy, BitVec.toNat_append, ← Nat.shiftLeft_eq, Nat.shiftLeft_add_eq_or_of_lt y.isLt]

/-- The eight stream bits of an address are its byte. -/
theorem streamValue_byte {m : Memory} {a : Nat} {b : Byte} (h : Memory.read m a = .val b) :
    streamValue m (8 * a) 8 = b.toNat := by
  refine Nat.eq_of_testBit_eq fun j => ?_
  rcases lt_or_ge j 8 with hj | hj
  · have hbit := streamValue_testBit m (8 * a) (show 7 - j < 8 by omega)
    have hread : Memory.read m ((8 * a + (7 - j)) / 8) = .val b := by
      rw [show (8 * a + (7 - j)) / 8 = a by omega, h]
    rw [streamBit_of_read hread, show 8 - 1 - (7 - j) = j by omega,
      show 7 - (8 * a + (7 - j)) % 8 = j by omega] at hbit
    exact hbit
  · have hpow : 2 ^ 8 ≤ 2 ^ j := Nat.pow_le_pow_right (by decide) hj
    rw [Nat.testBit_lt_two_pow ((streamValue_lt m _ 8).trans_le hpow),
      Nat.testBit_lt_two_pow (b.isLt.trans_le hpow)]

/-! ## Reading a field -/

/-- A field that fits but is not readable meets a byte never written, one that it touches (20_memory.md R63). -/
theorem readField_unwritten {n : Nat} {s : State} (h1 : 1 ≤ n) (h2 : n ≤ s.cfg.readWidth)
    (hfit : s.pos + n ≤ 8 * s.len) (hr : ¬s.readable n) (k : Nat → State → Out) :
    ∃ a, readField n s k = .fault (.inUnwritten a) ∧ Memory.read s.inBuf a = .poison ∧ s.pos / 8 ≤ a ∧
      8 * a < s.pos + n := by
  cases hbits : Memory.bits s.inBuf n s.pos 0 with
  | ok v => exact absurd ⟨h1, h2, hfit, Memory.written_of_bits hbits⟩ hr
  | error a =>
    obtain ⟨hpoison, j, hlo, hhi, rfl⟩ := Memory.bits_error hbits
    refine ⟨j / 8, ?_, hpoison, Nat.div_le_div_right hlo, by omega⟩
    rw [readField, readBits, if_neg (by omega), if_pos ((available_iff h1).mpr hfit), hbits]

/-- A width outside `1..READ_WIDTH` is refused by name (40_bit_reader.md R128). -/
theorem readField_badWidth {n : Nat} {s : State} (h : n = 0 ∨ s.cfg.readWidth < n) (k : Nat → State → Out) :
    readField n s k = .refused (.readerWidth n) := by
  rw [readField, readBits, if_pos h]

theorem execReadBits_of_readable {s : State} {n : Nat} (h : s.readable n) :
    exec (.readBits n) s = .next { s with pos := s.pos + n, out := .bits (streamValue s.inBuf s.pos n) } :=
  readField_of_readable h _

/-- Settles O20: the four answers of a read of a field, its value bit by bit. -/
theorem readBitsReadsTheField : Obligations.ReadBitsReadsTheField := by
  unfold Obligations.ReadBitsReadsTheField
  intro s n
  refine ⟨fun hr => ⟨_, execReadBits_of_readable hr, streamValue_lt _ _ _, fun k b hk hread => ?_⟩,
    fun h1 h2 hshort => readField_short h1 h2 hshort _,
    fun h1 h2 hfit hr => readField_unwritten h1 h2 hfit hr _,
    fun hw => readField_badWidth hw _⟩
  rw [streamValue_testBit _ _ hk, streamBit_of_read hread]

/-! ## ReadBit -/

theorem readable_one_iff {s : State} : s.readable 1 ↔
    1 ≤ s.cfg.readWidth ∧ s.pos < 8 * s.len ∧ ∃ b, Memory.read s.inBuf (s.pos / 8) = .val b := by
  constructor
  · rintro ⟨-, hw, hfit, hread⟩
    exact ⟨hw, hfit, hread s.pos le_rfl (Nat.lt_succ_self _)⟩
  · rintro ⟨hw, hfit, hread⟩
    refine ⟨le_rfl, hw, hfit, fun i hlo hhi => ?_⟩
    rwa [show i = s.pos by omega]

theorem execReadBit_of_readable {s : State} (h : s.readable 1) :
    exec .readBit s = .next { s with pos := s.pos + 1, out := .bit (streamBit s.inBuf s.pos) } := by
  have hbit : ((streamBit s.inBuf s.pos).toNat == 1) = streamBit s.inBuf s.pos := by
    cases streamBit s.inBuf s.pos <;> rfl
  rw [exec, execReadBit, readField_of_readable h, streamValue_one, hbit]
  rfl

/-- Settles O21: ReadBit is the read of a field of one bit, whose only byte is that of POS. -/
theorem readBitReadsOneBit : Obligations.ReadBitReadsOneBit := by
  unfold Obligations.ReadBitReadsOneBit
  intro s
  refine ⟨fun b hw hpos hread => ?_, fun hw hshort => readField_short le_rfl hw hshort _, fun hw hpos hread => ?_⟩
  · rw [execReadBit_of_readable (readable_one_iff.mpr ⟨hw, hpos, b, hread⟩), streamBit_of_read hread]
  · have hr : ¬s.readable 1 := by
      rw [readable_one_iff]
      rintro ⟨-, -, b, hb⟩
      cases hread.symm.trans hb
    obtain ⟨a, hfault, -, hlo, hhi⟩ := readField_unwritten le_rfl hw hpos hr _
    obtain rfl : s.pos / 8 = a := by omega
    exact hfault

/-! ## Byte order -/

/-- Settles O23: a field of whole bytes is their concatenation, and any field is that of its two parts. -/
theorem fieldsAreBigEndian : Obligations.FieldsAreBigEndian := by
  unfold Obligations.FieldsAreBigEndian
  intro s b0 b1 b2 b4 b5 i n k hw hlen h0 h1 h2 h4 h5
  refine ⟨fun hpos => ?_, fun hpos => ?_, streamValue_add s.inBuf i n k⟩
  · have hr : s.readable 24 := by
      refine ⟨by decide, hw, by omega, fun j hlo hhi => ?_⟩
      obtain hj | hj | hj : j / 8 = 0 ∨ j / 8 = 1 ∨ j / 8 = 2 := by omega
      · exact ⟨b0, hj ▸ h0⟩
      · exact ⟨b1, hj ▸ h1⟩
      · exact ⟨b2, hj ▸ h2⟩
    have hval : streamValue s.inBuf 0 24 = (b0 ++ b1 ++ b2).toNat :=
      streamValue_append (streamValue_append (streamValue_byte h0) (streamValue_byte h1)) (streamValue_byte h2)
    rw [execReadBits_of_readable hr, hpos, hval]
  · have hr : s.readable 16 := by
      refine ⟨by decide, by omega, by omega, fun j hlo hhi => ?_⟩
      obtain hj | hj : j / 8 = 4 ∨ j / 8 = 5 := by omega
      · exact ⟨b4, hj ▸ h4⟩
      · exact ⟨b5, hj ▸ h5⟩
    have hval : streamValue s.inBuf 32 16 = (b4 ++ b5).toNat :=
      streamValue_append (streamValue_byte h4) (streamValue_byte h5)
    rw [execReadBits_of_readable hr, hpos, hval]

end Sys2Proof.Proofs.Reader
end

section
/-! Where a step can stop (60_exceptions.md R259). Under the invariant a phase answers a next state or meets a byte of its
range that was never written: every register it reads holds a value, its field widths are allowed, and P_PAYLOAD stands
at a byte boundary. The host's own instructions stop only as R61 and R271 say. -/

namespace Sys2Proof.Proofs.Stops
open Sys2Proof.Machine Sys2Proof.Proofs.Moves Sys2Proof.Proofs.Turns Sys2Proof.Proofs.Invariant
open Sys2Proof.Proofs.Commit Sys2Proof.Proofs.InputBuffer Sys2Proof.Laws.Shape

/-- An outcome of PESP's own turn in `s`: a next state, or the model fault of a byte of the range never written
(20_memory.md R63). -/
inductive Answers (s : State) : Out → Prop
  | next (t : State) : Answers s (.next t)
  | unwritten (a : Nat) (ha : a < s.len) (hp : Memory.read s.inBuf a = .poison) : Answers s (.fault (.inUnwritten a))

/-! ## The shared operations -/

section
variable {s : State}

theorem answers_terminate {r : Result} (hr : r ≠ .ok) (c : Cause) (u : State) : Answers s (terminate r c u) := by
  cases r with
  | ok => exact absurd rfl hr
  | malformed | unsupported | truncated => exact .next _

/-- A check that fails ends the parse, and one that holds goes on. -/
theorem answers_check {p : Prop} [Decidable p] {r : Result} (hr : r ≠ .ok) (c : Cause) (u v : State) :
    Answers s (if p then terminate r c u else .next v) := by
  split
  · exact answers_terminate hr c u
  · exact .next v

theorem answers_needs {α : Type} {r : RegName} {v : Poisonable α} {k : α → Out} (hv : v.isVal = true)
    (hk : ∀ x, v = .val x → Answers s (k x)) : Answers s (needs r v k) := by
  cases v with
  | poison => cases hv
  | val x => exact hk x rfl

/-- READ_WIDTH allows every field of the header (00_scope.md R7). -/
theorem readWidth_of_wf {c : Config} {n : Nat} (h : c.wf = true) (hn : n ≤ 24) : n ≤ c.readWidth := by
  rw [Config.wf, Bool.and_eq_true, decide_eq_true_eq] at h
  obtain ⟨hw, -⟩ := h
  exact hn.trans hw

theorem answers_readField {n : Nat} {k : Nat → State → Out} (hcfg : s.cfg.wf = true) (hn : 1 ≤ n ∧ n ≤ 24)
    (hk : ∀ v, Answers s (k v (s.advance n))) : Answers s (readField n s k) := by
  obtain ⟨h1, h24⟩ := hn
  have hwidth := readWidth_of_wf hcfg h24
  rw [readField]
  rcases readBits_cases n s with ⟨-, hbad⟩ | ⟨hr, -⟩ | ⟨a, hr, -, hp, -, ha⟩ | ⟨hr, -⟩
  · omega
  · rw [hr]; exact answers_terminate (by decide) _ _
  · rw [hr]; exact .unwritten a ha hp
  · rw [hr]; exact hk _

theorem answers_markerPhase {c : Cause} {k : State → Out} (hcfg : s.cfg.wf = true)
    (hk : Answers s (k (s.advance 1))) : Answers s (markerPhase c k s) := by
  refine answers_readField hcfg (by decide) fun v => ?_
  split
  · exact answers_terminate (by decide) _ _
  · exact hk

end

/-! ## The registers of the working header -/

theorem exists_val {α : Type} {v : Poisonable α} (h : v.isVal = true) : ∃ x, v = .val x := by
  cases v with
  | poison => cases h
  | val x => exact ⟨x, rfl⟩

theorem valueOf_isOk {α : Type} (r : RegName) {v : Poisonable α} (h : v.isVal = true) : ∃ x, valueOf r v = .ok x := by
  obtain ⟨x, rfl⟩ := exists_val h
  exact ⟨x, rfl⟩

theorem bind_isOk {ε α β : Type} {x : Except ε α} {f : α → Except ε β} (hx : ∃ a, x = .ok a)
    (hf : ∀ a, x = .ok a → ∃ b, f a = .ok b) : ∃ b, (x >>= f) = .ok b := by
  obtain ⟨a, rfl⟩ := hx
  exact hf a rfl

theorem bind_ite_isOk {ε α β : Type} {c : Bool} {x y : Except ε α} {f : α → Except ε β}
    (hx : c = true → ∃ a, x = .ok a) (hy : ∃ a, y = .ok a) (hf : ∀ a, ∃ b, f a = .ok b) :
    ∃ b, (if c = true then x >>= f else y >>= f) = .ok b := by
  split
  · rename_i hc
    exact bind_isOk (hx hc) fun a _ => hf a
  · exact bind_isOk hy fun a _ => hf a

theorem timestamp_isOk {α : Type} (r : RegName) {v : Poisonable α} (h : v.isVal = true) :
    ∃ x, (valueOf r v).map Poisonable.val = .ok x := by
  obtain ⟨x, rfl⟩ := exists_val h
  exact ⟨.val x, rfl⟩

section
variable {s : State}

theorem extFlags_isOk (h : s.flagClusterInv) (hp : s.past 0x10) : ∃ e, s.wk.extFlags = .ok e := by
  have hpast {k : Nat} (hk : k ≤ 0x10) : s.past k := hk.trans_lt hp
  obtain ⟨-, -, -, -, -, -, -, -, hescr, hesr, hdsm, haci, hcrc, hext, -⟩ := h
  exact bind_isOk (valueOf_isOk _ (hescr (hpast (by decide)))) fun _ _ =>
    bind_isOk (valueOf_isOk _ (hesr (hpast (by decide)))) fun _ _ =>
    bind_isOk (valueOf_isOk _ (hdsm (hpast (by decide)))) fun _ _ =>
    bind_isOk (valueOf_isOk _ (haci (hpast (by decide)))) fun _ _ =>
    bind_isOk (valueOf_isOk _ (hcrc (hpast (by decide)))) fun _ _ =>
    bind_isOk (valueOf_isOk _ (hext hp)) fun _ _ => ⟨_, rfl⟩

theorem flags1_isOk (h : s.flagClusterInv) (hp : s.past 0x09) : ∃ b, s.wk.flags1 = .ok b := by
  have hpast {k : Nat} (hk : k ≤ 0x09) : s.past k := hk.trans_lt hp
  obtain ⟨hfixed, hscr, hpri, hdai, hcpy, hooc, -⟩ := h
  exact bind_isOk ⟨_, congrArg (valueOf .wkFixed) (hfixed (hpast (by decide)))⟩ fun _ _ =>
    bind_isOk (valueOf_isOk _ (hscr (hpast (by decide)))) fun _ _ =>
    bind_isOk (valueOf_isOk _ (hpri (hpast (by decide)))) fun _ _ =>
    bind_isOk (valueOf_isOk _ (hdai (hpast (by decide)))) fun _ _ =>
    bind_isOk (valueOf_isOk _ (hcpy (hpast (by decide)))) fun _ _ =>
    bind_isOk (valueOf_isOk _ (hooc hp)) fun _ _ => ⟨_, rfl⟩

theorem ptsDtsFlags_isVal (h : s.flagClusterInv) (hp : s.past 0x0A) : s.wk.ptsDtsFlags.isVal = true := by
  obtain ⟨-, -, -, -, -, -, hflags, -⟩ := h
  exact hflags hp

theorem hdl_isVal (h : s.flagClusterInv) (hp : s.past 0x11) : s.wk.hdl.isVal = true := by
  obtain ⟨-, -, -, -, -, -, -, -, -, -, -, -, -, -, hhdl⟩ := h
  exact hhdl hp

theorem flags2_isOk (h : s.flagClusterInv) (hp : s.past 0x10) : ∃ b, s.wk.flags2 = .ok b :=
  bind_isOk (valueOf_isOk _ (ptsDtsFlags_isVal h (lt_trans (by decide) hp))) fun _ _ =>
    bind_isOk (extFlags_isOk h hp) fun _ _ => ⟨_, rfl⟩

/-- A running start parse has decoded what lies before its phase. -/
theorem decodedInv_of_start (h : s.Inv) (hs : s.cmdStart = true) (hne : s.phase ≠ Phase.idle.code) :
    s.decodedInv := by
  obtain ⟨-, -, -, -, -, -, -, hprog⟩ := h
  have hrun := hprog hne
  rw [if_pos hs] at hrun
  obtain ⟨hdec, -⟩ := hrun
  exact hdec

/-- Between P_LEN and P_PAYLOAD an optional header is being decoded. -/
theorem optionalHeader_of_inv (h : s.Inv) (hlo : 0x03 < s.phase.toNat) (hhi : s.phase.toNat < 0x21) :
    s.flagClusterInv ∧ s.timestampsInv := by
  obtain ⟨-, ⟨⟨-, -, -, hopt⟩, hdec⟩, -⟩ := startParse_of_inv h (by omega) hhi
  exact hdec (hopt hlo hhi) hlo

end

/-! ## The phases -/

section
variable {s : State}

theorem answers_pLen (h : s.Inv) (hp : s.phase = Phase.pLen.code) : Answers s (exec .pLen s) := by
  have ⟨hcfg, _⟩ := h
  obtain ⟨-, ⟨⟨-, hid, -⟩, -⟩, -⟩ := startParse_of_inv h (hp ▸ by decide) (hp ▸ by decide)
  exact answers_readField hcfg (by decide) fun _ => answers_needs (hid (by rw [State.past, hp]; decide))
    fun _ _ => .next _

theorem answers_pHdl (h : s.Inv) (hp : s.phase = Phase.pHdl.code) : Answers s (exec .pHdl s) := by
  have ⟨hcfg, _⟩ := h
  obtain ⟨hcluster, -⟩ := optionalHeader_of_inv h (hp ▸ by decide) (hp ▸ by decide)
  have hflags := ptsDtsFlags_isVal hcluster (by rw [State.past, hp]; decide)
  exact answers_readField hcfg (by decide) fun _ => answers_needs hflags fun _ _ => .next _

theorem answers_pPtsPfx (h : s.Inv) (hp : s.phase = Phase.pPtsPfx.code) : Answers s (exec .pPtsPfx s) := by
  have ⟨hcfg, _⟩ := h
  obtain ⟨hcluster, -⟩ := optionalHeader_of_inv h (hp ▸ by decide) (hp ▸ by decide)
  have hflags := ptsDtsFlags_isVal hcluster (by rw [State.past, hp]; decide)
  exact answers_readField hcfg (by decide) fun _ => answers_needs hflags fun _ _ => answers_check (by decide) _ _ _

theorem answers_pPtsM2 (h : s.Inv) (hp : s.phase = Phase.pPtsM2.code) : Answers s (exec .pPtsM2 s) := by
  have ⟨hcfg, _⟩ := h
  have hpast {k : Nat} (hk : k < 0x18) : s.past k := by rw [State.past, hp]; exact hk
  obtain ⟨hcluster, hpts, -, hsegments, -⟩ := optionalHeader_of_inv h (hp ▸ by decide) (hp ▸ by decide)
  obtain ⟨hhi, hmid, hlo, -⟩ := hsegments (hpts (hpast (by decide)) (hp ▸ by decide))
  exact answers_markerPhase hcfg <|
    answers_needs (hhi (hpast (by decide))) fun _ _ =>
    answers_needs (hmid (hpast (by decide))) fun _ _ =>
    answers_needs (hlo (hpast (by decide))) fun _ _ =>
    answers_needs (ptsDtsFlags_isVal hcluster (hpast (by decide))) fun _ _ => .next _

theorem answers_pDtsM2 (h : s.Inv) (hp : s.phase = Phase.pDtsM2.code) : Answers s (exec .pDtsM2 s) := by
  have ⟨hcfg, _⟩ := h
  have hpast {k : Nat} (hk : k < 0x1F) : s.past k := by rw [State.past, hp]; exact hk
  obtain ⟨-, -, hdts, -, hsegments, -⟩ := optionalHeader_of_inv h (hp ▸ by decide) (hp ▸ by decide)
  obtain ⟨hhi, hmid, hlo, -⟩ := hsegments (hdts (hpast (by decide)) (hp ▸ by decide))
  exact answers_markerPhase hcfg <|
    answers_needs (hhi (hpast (by decide))) fun _ _ =>
    answers_needs (hmid (hpast (by decide))) fun _ _ =>
    answers_needs (hlo (hpast (by decide))) fun _ _ => .next _

theorem answers_pExtchk (h : s.Inv) (hp : s.phase = Phase.pExtchk.code) : Answers s (exec .pExtchk s) := by
  obtain ⟨hcluster, -⟩ := optionalHeader_of_inv h (hp ▸ by decide) (hp ▸ by decide)
  obtain ⟨e, he⟩ := extFlags_isOk hcluster (by rw [State.past, hp]; decide)
  rw [exec, execPExtchk, he]
  exact answers_check (by decide) _ _ _

theorem answers_pPayloadPad (h : s.Inv) (hp : s.phase = Phase.pPayload.code) (hs : s.cmdStart = true) :
    Answers s (exec .pPayloadPad s) := by
  obtain ⟨⟨-, -, hlen, -⟩, -⟩ := decodedInv_of_start h hs (hp ▸ by decide)
  exact answers_needs (hlen (by rw [State.past, hp]; decide)) fun _ _ => answers_check (by decide) _ _ _

/-- P_PAYLOAD stands at a byte boundary: behind a header of whole bytes, or at bit 0 (30_encoding.md R92). -/
theorem byteAligned_of_pPayload (h : s.Inv) (hp : s.phase = Phase.pPayload.code) : s.pos % 8 = 0 := by
  obtain ⟨-, -, -, -, -, -, -, hprog⟩ := h
  have hrun := hprog (hp ▸ by decide)
  split at hrun
  · obtain ⟨-, hpos⟩ := hrun
    rw [hpos (hp ▸ by decide), State.phasePos, if_pos (.inr hp), Nat.mul_mod_right]
  · rcases hrun with ⟨-, hpos⟩ | hcommit
    · rw [hpos]
    · exact absurd (hp.symm.trans hcommit) (by decide)

theorem answers_pPayloadFwd (h : s.Inv) (hp : s.phase = Phase.pPayload.code) : Answers s (exec .pPayloadFwd s) := by
  have hbyte : currentByte s = some (s.pos / 8) := if_pos (byteAligned_of_pPayload h hp)
  simp only [exec, execPPayloadFwd, hbyte]
  split
  · rename_i a ha
    obtain ⟨hlo, hhi, hpoison⟩ := Memory.range_error ha
    exact .unwritten a (by omega) hpoison
  · exact .next _

/-! ## P_COMMIT -/

/-- A start parse in P_COMMIT has every register that its commit takes (60_exceptions.md R256). -/
theorem commitHeader_isOk (h : s.Inv) (hp : s.phase = Phase.pCommit.code) (hs : s.cmdStart = true) :
    ∃ hc, commitHeader s.cfg.streamIds s.wk = .ok hc := by
  have hpast {k : Nat} (hk : k < 0x22) : s.past k := by rw [State.past, hp]; exact hk
  obtain ⟨⟨hsc, hid, hpl, -⟩, hopt⟩ := decodedInv_of_start h hs (hp ▸ by decide)
  refine bind_isOk ⟨_, congrArg (valueOf .wkStartCode) (hsc (hpast (by decide)))⟩ fun _ _ =>
    bind_isOk (valueOf_isOk _ (hid (hpast (by decide)))) fun id hidv =>
    bind_isOk (valueOf_isOk _ (hpl (hpast (by decide)))) fun _ _ => ?_
  split
  · rename_i hhas
    have hwk : s.wkHasOpt = true := (wkHasOpt_of_streamId (valueOf_ok hidv)).trans hhas
    obtain ⟨hcluster, -, -, hpts, hdts, -⟩ := hopt hwk (hpast (by decide))
    refine bind_isOk (flags1_isOk hcluster (hpast (by decide))) fun _ _ =>
      bind_isOk (flags2_isOk hcluster (hpast (by decide))) fun _ _ =>
      bind_isOk (valueOf_isOk _ (hdl_isVal hcluster (hpast (by decide)))) fun _ _ =>
      bind_isOk (valueOf_isOk _ (ptsDtsFlags_isVal hcluster (hpast (by decide)))) fun f hf => ?_
    rw [wkFields_of_flags (valueOf_ok hf)] at hpts hdts
    refine bind_ite_isOk (fun hhas => ?_) ⟨_, rfl⟩ fun _ => bind_ite_isOk (fun hhas => ?_) ⟨_, rfl⟩ fun _ => ⟨_, rfl⟩
    · obtain ⟨-, -, -, hval⟩ := hpts hhas
      exact timestamp_isOk _ (hval (hpast (by decide)))
    · obtain ⟨-, -, -, hval⟩ := hdts hhas
      exact timestamp_isOk _ (hval (hpast (by decide)))
  · exact ⟨_, rfl⟩

theorem answers_terminateOk (h : s.Inv) (hp : s.phase = Phase.pCommit.code) : Answers s (terminateOk s) := by
  rw [terminateOk]
  split
  · rename_i hs
    obtain ⟨hc, hok⟩ := commitHeader_isOk h hp hs
    rw [hok]
    exact .next _
  · exact .next _

theorem answers_pCommit (h : s.Inv) (hp : s.phase = Phase.pCommit.code) : Answers s (exec .pCommit s) := by
  have hend : Answers s (terminate .ok .none s) := answers_terminateOk h hp
  have hpast {k : Nat} (hk : k < 0x22) : s.past k := by rw [State.past, hp]; exact hk
  rw [exec, execPCommit]
  split
  · rename_i hs
    obtain ⟨⟨-, hid, -⟩, hopt⟩ := decodedInv_of_start h hs (hp ▸ by decide)
    refine answers_needs (hid (hpast (by decide))) fun id hidv => ?_
    split
    · rename_i hhas
      obtain ⟨hcluster, -⟩ := hopt ((wkHasOpt_of_streamId hidv).trans hhas) (hpast (by decide))
      refine answers_needs (ptsDtsFlags_isVal hcluster (hpast (by decide))) fun f _ => ?_
      split
      · exact .next _
      · exact hend
    · exact hend
  · exact hend

end

/-- Under the invariant the phase that PHASE selects answers a next state or meets an unwritten byte of its range. -/
theorem answers_phase {i : Instr} {s : State} (hport : portOf i = .phase) (hres : ∀ code, i ≠ .phaseReserved code)
    (h : s.Inv) (hs : Selected i s) : Answers s (exec i s) := by
  have ⟨hcfg, _⟩ := h
  obtain ⟨hcode, hpad⟩ := hs
  cases i with
  | parseS | parseC | inWrite | regRead | classify | reset | readBit | readBits | bytesLeft | current | isAudioStream
  | isVideoStream | isPaddingStream | hasOptionalHeader | sidPsm | sidPadding | sidPriv2 | sidEcm | sidEmm | sidDsmcc
  | sidH2221e | sidPsd | sidAudio | sidVideo | sidOther | pdfNone | pdfForbidden | pdfPts | pdfPtsDts => cases hport
  | idle => exact .next s
  | pSid | pScr | pPri | pDai | pCpy | pOoc | pEscrf | pEsrf | pDsmf | pAcif | pCrcf | pExtf
  | pPtsHi | pPtsMid | pPtsLo | pDtsHi | pDtsMid | pDtsLo => exact answers_readField hcfg (by decide) fun _ => .next _
  | pStart | pFixed | pDtsPfx => exact answers_readField hcfg (by decide) fun _ => answers_check (by decide) _ _ _
  | pPtsM0 | pPtsM1 | pDtsM0 | pDtsM1 => exact answers_markerPhase hcfg (.next _)
  | pPdf =>
    refine answers_readField hcfg (by decide) fun v => ?_
    rw [flagsRead_eq]
    exact .next _
  | pLen => exact answers_pLen h hcode.symm
  | pHdl => exact answers_pHdl h hcode.symm
  | pPtsPfx => exact answers_pPtsPfx h hcode.symm
  | pPtsM2 => exact answers_pPtsM2 h hcode.symm
  | pDtsM2 => exact answers_pDtsM2 h hcode.symm
  | pExtchk => exact answers_pExtchk h hcode.symm
  | pPayloadPad => exact answers_pPayloadPad h hcode.symm (hpad rfl)
  | pPayloadFwd => exact answers_pPayloadFwd h hcode.symm
  | pCommit => exact answers_pCommit h hcode.symm
  | phaseReserved code => exact absurd rfl (hres code)

/-! ## A turn of PESP -/

theorem phaseInstr_ne_reserved : ∀ code : BitVec 6, code.toNat ≤ 0x22 → ∀ c, phaseInstr code ≠ .phaseReserved c := by
  decide

/-- P_PAYLOAD of a start parse holds the stream id that selects its branch (43_payload_result.md R224). -/
theorem phaseByte_of_inv {s : State} (h : s.Inv) :
    phaseByte s = .ok payloadPadByte ∨ phaseByte s = .ok (s.phase.setWidth 8) := by
  unfold phaseByte
  split
  · rename_i hpay
    obtain ⟨hp, hs⟩ := hpay
    obtain ⟨⟨-, hid, -⟩, -⟩ := decodedInv_of_start h hs (hp ▸ by decide)
    obtain ⟨id, hidv⟩ := exists_val (hid (by rw [State.past, hp]; decide))
    rw [hidv]
    dsimp only
    split
    · exact .inl rfl
    · exact .inr rfl
  · exact .inr rfl

/-- Under the invariant the fetch of a phase finds one, and none that is reserved (30_encoding.md R98). -/
theorem fetchPhase_of_inv {s : State} (h : s.Inv) :
    ∃ i, fetchPhase s = .run i s ∧ ∀ code, i ≠ .phaseReserved code := by
  have ⟨_, _, _, ⟨_, _, hlast, _⟩, _⟩ := h
  rcases phaseByte_of_inv h with hb | hb <;> rw [fetchPhase, hb]
  · exact ⟨.pPayloadPad, rfl, nofun⟩
  · exact ⟨phaseInstr s.phase, fetchWord_of_decode (decodePhase_code s.phase), phaseInstr_ne_reserved s.phase hlast⟩

theorem fetch_of_pespTurn {s : State} (ht : s.pespTurn = true) : fetch s = fetchPhase (dequeued s) := by
  cases hs : s.turns with
  | nil =>
    have hq : dequeued s = s := by rw [dequeued, show s.turns.tail = s.turns by rw [hs]; rfl]
    rw [hq, fetch, hs]
  | cons x rest =>
    cases x with
    | pesp => rw [fetch, dequeued, hs]; rfl
    | host w | unit w => simp [State.pespTurn, hs] at ht

theorem answers_step {s : State} (h : s.Inv) (ht : s.pespTurn = true) : Answers (dequeued s) (step s) := by
  have hinv := inv_dequeued h
  obtain ⟨i, hf, hres⟩ := fetchPhase_of_inv hinv
  obtain ⟨-, hport, hs⟩ := fetchPhase_run hf
  rw [step_of_fetch ((fetch_of_pespTurn ht).trans hf)]
  exact answers_phase hport hres hinv hs

/-! ## A turn of the host -/

/-- Everything an instruction of the host can answer: it stops only at a POISON register (R271) or outside `IN` (R61). -/
theorem hostExec_cases {i : Instr} {s : State} {c : Config} (hp : (encode c i).port.isHost = true) :
    (∃ t, exec i s = .next t) ∨
    (∃ n r, i = .regRead n ∧ exec i s = .fault (.readPoison r)) ∨
    ∃ a b, i = .inWrite a b ∧ s.cfg.maxLen ≤ a ∧ exec i s = .fault (.hostProtocolInAddr a) := by
  cases i with
  | parseS len | parseC len => exact .inl ⟨_, command_eq _ len s⟩
  | inWrite a b =>
    rcases le_or_gt s.cfg.maxLen a with ha | ha
    · exact .inr (.inr ⟨a, b, rfl, ha, execInWrite_of_maxLen_le b ha⟩)
    · cases hb : s.status.busy with
      | true => exact .inl ⟨_, execInWrite_busy b ha hb⟩
      | false => exact .inl ⟨_, execInWrite_idle b ha hb⟩
  | regRead n =>
    rw [exec, execRegRead]
    cases registerValue s n with
    | ok v => exact .inl ⟨_, rfl⟩
    | error r => exact .inr (.inl ⟨n, r, rfl, rfl⟩)
  | classify | reset => exact .inl ⟨_, rfl⟩
  | _ => cases hp

/-- What a word on a port does: no port of the host's, no instruction, or an instruction of the host's. -/
theorem step_of_hostTurn {s : State} {w : PortWord} {rest : List Turn} (hs : s.turns = .host w :: rest) :
    step s = .refused (.notHostPort w.port) ∨
    (∃ e, decode s.cfg w = .error e ∧ step s = .refused (.undecodable e)) ∨
    ∃ i, (encode s.cfg i).port.isHost = true ∧ decode s.cfg w = .ok i ∧ step s = exec i (dequeued s) := by
  have hfetch : fetch s = if w.port.isHost then fetchWord w (dequeued s) else .refused (.notHostPort w.port) := by
    rw [fetch, dequeued, hs]
    rfl
  by_cases hw : w.port.isHost = true
  · rw [if_pos hw, fetchWord] at hfetch
    cases hd : decode s.cfg w with
    | error e =>
      rw [show decode (dequeued s).cfg w = .error e from hd] at hfetch
      exact .inr (.inl ⟨e, rfl, by rw [step, hfetch]⟩)
    | ok i =>
      rw [show decode (dequeued s).cfg w = .ok i from hd] at hfetch
      have hp := (encode_port s.cfg i).trans (portOf_decode hd)
      exact .inr (.inr ⟨i, hp ▸ hw, rfl, step_of_fetch hfetch⟩)
  · rw [if_neg hw] at hfetch
    exact .inl (by rw [step, hfetch])

/-- Under the invariant the next turn is PESP's or the host's. -/
theorem turn_of_inv {s : State} (h : s.Inv) : s.pespTurn = true ∨ ∃ w rest, s.turns = .host w :: rest := by
  obtain ⟨-, -, -, ⟨-, -, -, hturns⟩, -⟩ := h
  cases hs : s.turns with
  | nil => exact .inl (by rw [State.pespTurn, hs]; rfl)
  | cons x rest =>
    cases x with
    | pesp => exact .inl (by rw [State.pespTurn, hs]; rfl)
    | host w => exact .inr ⟨w, rest, rfl⟩
    | unit w => rw [hs] at hturns; cases hturns

/-- Settles O45: a turn of PESP stops at an unwritten byte alone, and a turn of the host by its word or its operands. -/
theorem stopsOnlyAsNamed : Obligations.StopsOnlyAsNamed := by
  unfold Obligations.StopsOnlyAsNamed
  intro s h
  rcases turn_of_inv h with ht | ⟨w, rest, ht⟩
  · have hans := answers_step h ht
    generalize step s = o at hans ⊢
    cases hans with
    | next t => exact ⟨nofun, nofun⟩
    | unwritten a ha hp =>
      exact ⟨fun f hf => .inr (.inr ⟨a, ht, (Host.Outcome.fault.inj hf).symm, ha, hp⟩), nofun⟩
  · rcases step_of_hostTurn ht with hstep | ⟨e, he, hstep⟩ | ⟨i, hport, hd, hstep⟩ <;> rw [hstep]
    · exact ⟨nofun, fun r hr => ⟨w, rest, ht, .inl (Host.Outcome.refused.inj hr).symm⟩⟩
    · exact ⟨nofun, fun r hr => ⟨w, rest, ht, .inr ⟨e, he, (Host.Outcome.refused.inj hr).symm⟩⟩⟩
    · rcases hostExec_cases (s := dequeued s) hport with ⟨t, he⟩ | ⟨n, r, rfl, he⟩ | ⟨a, b, rfl, ha, he⟩ <;> rw [he]
      · exact ⟨nofun, nofun⟩
      · exact ⟨fun f hf => .inl ⟨w, rest, n, r, ht, hd, (Host.Outcome.fault.inj hf).symm⟩, nofun⟩
      · exact ⟨fun f hf => .inr (.inl ⟨w, rest, a, b, ht, hd, ha, (Host.Outcome.fault.inj hf).symm⟩), nofun⟩

end Sys2Proof.Proofs.Stops
end

section
/-! The words of the ports as a code (30_encoding.md R80, R86, R94, R96, R104): on each port a word decodes to an
instruction exactly if the instruction is well formed and the word is its own. -/

namespace Sys2Proof.Proofs.Words
open Sys2Proof.Machine Sys2Proof.Laws.Shape Sys2Proof.Proofs.Turns

/-! ## The stream-id map -/

/-- The first row of the stream-id map that an id matches, written out (30_encoding.md R94). -/
theorem streamClass_eq (t : StreamIdTable) (id : Byte) :
    streamClass t id =
      if id = t.programStreamMap then .psm else if id = t.paddingStream then .padding
      else if id = t.privateStream2 then .priv2 else if id = t.ecmStream then .ecm
      else if id = t.emmStream then .emm else if id = t.dsmccStream then .dsmcc
      else if id = t.ituTH2221E then .h2221e else if id = t.programStreamDirectory then .psd
      else if isAudioStream id then .audio else if isVideoStream id then .video else .other := by
  have hexact (p : Byte) (cls : StreamClass) : SidRow.matchesId ⟨cls, p, 0xFF⟩ id = decide (id = p) := by
    rw [SidRow.matchesId, show (0xFF : Byte) = BitVec.allOnes 8 from rfl, BitVec.and_allOnes]
    rfl
  have hrest : SidRow.matchesId ⟨.other, 0x00, 0x00⟩ id = true := by
    rw [SidRow.matchesId, show (0x00 : Byte) = 0#8 from rfl, BitVec.and_zero]
    rfl
  have haudio : SidRow.matchesId ⟨.audio, 0xC0, 0xE0⟩ id = isAudioStream id := rfl
  have hvideo : SidRow.matchesId ⟨.video, 0xE0, 0xF0⟩ id = isVideoStream id := rfl
  simp only [streamClass, streamIdMap, List.find?_cons, hexact, haudio, hvideo, hrest]
  split_ifs <;> simp_all

/-- The bits of an id that the audio row's mask leaves out give the id back. -/
theorem audio_low : ∀ id : Byte, isAudioStream id = true → 0b110#3 ++ id.extractLsb' 0 5 = id := by decide

/-- The bits of an id that the video row's mask leaves out give the id back. -/
theorem video_low : ∀ id : Byte, isVideoStream id = true → 0b1110#4 ++ id.extractLsb' 0 4 = id := by decide

theorem low_audio : ∀ low : BitVec 5, (0b110#3 ++ low : Byte).extractLsb' 0 5 = low := by decide

theorem low_video : ∀ low : BitVec 4, (0b1110#4 ++ low : Byte).extractLsb' 0 4 = low := by decide

/-- The row an id decodes to has the id for its word. -/
theorem encode_decodeStreamId (c : Config) (id : Byte) : encode c (decodeStreamId c id) = ⟨.streamId, [id]⟩ := by
  rw [decodeStreamId, streamClass_eq]
  split_ifs <;> simp_all [encode, audio_low, video_low]

/-- The row an id decodes to is the first that matches it. -/
theorem wf_decodeStreamId (c : Config) (id : Byte) : (decodeStreamId c id).wf c = true := by
  have hword := encode_decodeStreamId c id
  cases hcls : streamClass c.streamIds id <;> simp_all [decodeStreamId, encode, Instr.wf, sidIs]

/-- An id whose first match is a row's decodes to that row. -/
theorem decode_streamId (c : Config) (id : Byte) : decode c ⟨.streamId, [id]⟩ = .ok (decodeStreamId c id) := rfl

/-! ## The PTS_DTS_flags table and the phases

Their words carry no operand whose width depends on the parameters. -/

theorem encode_wf_congr {i : Instr} (h : portOf i = .ptsDtsFlags ∨ portOf i = .phase) (c c' : Config) :
    encode c i = encode c' i ∧ i.wf c = i.wf c' := by
  cases i with
  | parseS | parseC | inWrite | readBits | sidPsm | sidPadding | sidPriv2 | sidEcm | sidEmm | sidDsmcc | sidH2221e
  | sidPsd | sidAudio | sidVideo | sidOther => rcases h with h | h <;> cases h
  | _ => exact ⟨rfl, rfl⟩

/-- Bits [7:6] of a byte select the row, and the other six go with it. -/
theorem decodePtsDtsFlags_append : ∀ ext : BitVec 6,
    decodePtsDtsFlags (0b00#2 ++ ext) = .pdfNone ext ∧ decodePtsDtsFlags (0b01#2 ++ ext) = .pdfForbidden ext ∧
    decodePtsDtsFlags (0b10#2 ++ ext) = .pdfPts ext ∧ decodePtsDtsFlags (0b11#2 ++ ext) = .pdfPtsDts ext := by decide

theorem encode_decodePtsDtsFlags_standard : ∀ b : Byte,
    encode Config.standard (decodePtsDtsFlags b) = ⟨.ptsDtsFlags, [b]⟩ ∧
      (decodePtsDtsFlags b).wf Config.standard = true := by decide

/-- The codes 0x23 to 0x3F are no phase's (30_encoding.md R98). -/
theorem phaseInstr_reserved : ∀ code : BitVec 6, 0x23 ≤ code.toNat → phaseInstr code = .phaseReserved code := by
  decide

theorem encode_phaseInstr_standard : ∀ code : BitVec 6,
    encode Config.standard (phaseInstr code) = ⟨.phase, [code.setWidth 8]⟩ ∧
      (phaseInstr code).wf Config.standard = true := by decide

/-- A byte with bits [7:6] clear is a PHASE code. -/
theorem setWidth_of_high_zero : ∀ b : Byte, b.extractLsb' 6 2 = 0 → (b.extractLsb' 0 6).setWidth 8 = b := by decide

/-! ## The decoder reads every word back -/

theorem decode_commandWord_start {c : Config} {len : Nat} (h : len < 2 ^ c.lw) :
    decode c (commandWord c 1 len) = .ok (.parseS len) := by
  simp [commandWord, decode, decodeCommand, decodeOperand_operandField h]

theorem decode_commandWord_continue {c : Config} {len : Nat} (h : len < 2 ^ c.lw) :
    decode c (commandWord c 0 len) = .ok (.parseC len) := by
  simp [commandWord, decode, decodeCommand, decodeOperand_operandField h]

theorem decode_encode_readBits {c : Config} {n : Nat} (h : n < 2 ^ bitlength c.readWidth) :
    decode c (encode c (.readBits n)) = .ok (.readBits n) := by
  simp [encode, decode, decodeReader, decodeOperand_operandField h]

theorem decode_encode_streamId {c : Config} {i : Instr} (hp : portOf i = .streamId) (h : i.wf c = true) :
    decode c (encode c i) = .ok i := by
  cases i with
  | sidPsm | sidPadding | sidPriv2 | sidEcm | sidEmm | sidDsmcc | sidH2221e | sidPsd | sidAudio | sidVideo | sidOther =>
    have hcls := of_decide_eq_true (p := streamClass _ _ = _) h
    simp only [encode, decode_streamId, decodeStreamId, hcls, low_audio, low_video]
  | _ => cases hp

theorem decode_encode_ptsDtsFlags {c : Config} {i : Instr} (hp : portOf i = .ptsDtsFlags) :
    decode c (encode c i) = .ok i := by
  cases i with
  | pdfNone ext | pdfForbidden ext | pdfPts ext | pdfPtsDts ext =>
    obtain ⟨hnone, hforbidden, hpts, hptsDts⟩ := decodePtsDtsFlags_append ext
    simp only [encode, decode, oneByte, hnone, hforbidden, hpts, hptsDts]
  | _ => cases hp

theorem decode_phaseWord (c : Config) (code : BitVec 6) :
    decode c ⟨.phase, [code.setWidth 8]⟩ = .ok (phaseInstr code) := decodePhase_code code

theorem decode_encode {c : Config} {i : Instr} (h : i.wf c = true) : decode c (encode c i) = .ok i := by
  cases i with
  | parseS len => exact decode_commandWord_start (of_decide_eq_true h)
  | parseC len => exact decode_commandWord_continue (of_decide_eq_true h)
  | inWrite a b => exact decode_encode_inWrite c a b
  | readBits n => exact decode_encode_readBits (of_decide_eq_true h)
  | sidPsm | sidPadding | sidPriv2 | sidEcm | sidEmm | sidDsmcc | sidH2221e | sidPsd | sidAudio | sidVideo | sidOther =>
    exact decode_encode_streamId rfl h
  | pdfNone | pdfForbidden | pdfPts | pdfPtsDts => exact decode_encode_ptsDtsFlags rfl
  | phaseReserved code =>
    rw [encode, decode_phaseWord, phaseInstr_reserved code (of_decide_eq_true h)]
  | _ => rfl

/-- Settles O2: the decoder reads the word of each port back. -/
theorem decodeEncodeAgree : Obligations.DecodeEncodeAgree := by
  unfold Obligations.DecodeEncodeAgree
  exact fun c i h => decode_encode h

/-! ## A word that decodes is the instruction's own -/

theorem encode_of_decodeCommand {c : Config} {bs : List Byte} {i : Instr} (h : decodeCommand c bs = .ok i) :
    i.wf c = true ∧ encode c i = ⟨.command, bs⟩ := by
  unfold decodeCommand at h
  split at h
  · cases h
  · rename_i sel rest
    split at h
    · cases h
    · rename_i len hop
      obtain ⟨hrest, hlen⟩ := decodeOperand_ok hop
      rw [← operandField_of_lt hlen] at hrest
      split at h
      · rename_i hsel
        cases h
        exact ⟨decide_eq_true hlen, by rw [hsel, hrest]; rfl⟩
      · split at h
        · rename_i hsel
          cases h
          exact ⟨decide_eq_true hlen, by rw [hsel, hrest]; rfl⟩
        · cases h

theorem encode_of_decodeInWrite {c : Config} {bs : List Byte} {i : Instr} (h : decodeInWrite c bs = .ok i) :
    i.wf c = true ∧ encode c i = ⟨.inWrite, bs⟩ := by
  unfold decodeInWrite at h
  split at h
  · cases h
  · split at h
    · cases h
    · rename_i a ha
      cases h
      exact ⟨rfl, by rw [decodeAddress_ok ha]; rfl⟩

theorem encode_of_decodeReader {c : Config} {bs : List Byte} {i : Instr} (h : decodeReader c bs = .ok i) :
    i.wf c = true ∧ encode c i = ⟨.reader, bs⟩ := by
  unfold decodeReader at h
  split at h
  · cases h
  · rename_i sel rest
    have hsel (k : Nat) (hk : sel.toNat = k) : sel = BitVec.ofNat 8 k := by
      rw [← hk, BitVec.ofNat_toNat, BitVec.setWidth_eq]
    split at h
    case h_2 hk =>
      split at h
      · cases h
      · rename_i n hop
        obtain ⟨hrest, hn⟩ := decodeOperand_ok hop
        cases h
        exact ⟨decide_eq_true hn, by rw [hsel _ hk, hrest, ← operandField_of_lt hn]; rfl⟩
    case h_5 => cases h
    all_goals
      rename_i hk
      split at h
      · rename_i hrest
        cases h
        exact ⟨rfl, by rw [hsel _ hk, hrest]; rfl⟩
      · cases h

theorem encode_of_decodePhase {c : Config} {b : Byte} {i : Instr} (h : decodePhase b = .ok i) :
    i.wf c = true ∧ encode c i = ⟨.phase, [b]⟩ := by
  obtain ⟨hword, hwf⟩ := encode_wf_congr (.inr (portOf_decodePhase h)) c Config.standard
  rw [hword, hwf]
  unfold decodePhase at h
  split at h
  · rename_i hb
    cases h
    exact ⟨rfl, by rw [hb]; rfl⟩
  · split at h
    · cases h
    · rename_i hhigh
      cases h
      obtain ⟨hw, hwf⟩ := encode_phaseInstr_standard (b.extractLsb' 0 6)
      exact ⟨hwf, by rw [hw, setWidth_of_high_zero b (not_not.mp hhigh)]⟩

theorem encode_of_decodePtsDtsFlags (c : Config) (b : Byte) :
    (decodePtsDtsFlags b).wf c = true ∧ encode c (decodePtsDtsFlags b) = ⟨.ptsDtsFlags, [b]⟩ := by
  obtain ⟨hword, hwf⟩ := encode_wf_congr (.inl (portOf_decodePtsDtsFlags b)) c Config.standard
  rw [hword, hwf]
  exact (encode_decodePtsDtsFlags_standard b).symm

theorem oneByte_eq_ok {k : Byte → Except DecodeError Instr} {bs : List Byte} {i : Instr} (h : oneByte k bs = .ok i) :
    ∃ b, bs = [b] ∧ k b = .ok i := by
  unfold oneByte at h
  split at h
  · exact ⟨_, rfl, h⟩
  · cases h

theorem encode_of_decode {c : Config} {w : PortWord} {i : Instr} (h : decode c w = .ok i) :
    i.wf c = true ∧ encode c i = w := by
  obtain ⟨p, bs⟩ := w
  cases p with
  | command => exact encode_of_decodeCommand h
  | inWrite => exact encode_of_decodeInWrite h
  | reader => exact encode_of_decodeReader h
  | reset =>
    simp only [decode] at h
    split at h
    · rename_i hbs
      cases h
      exact ⟨rfl, by rw [hbs]; rfl⟩
    · cases h
  | phase =>
    obtain ⟨b, rfl, hb⟩ := oneByte_eq_ok h
    exact encode_of_decodePhase hb
  | streamId =>
    obtain ⟨b, rfl, hb⟩ := oneByte_eq_ok h
    cases hb
    exact ⟨wf_decodeStreamId c b, encode_decodeStreamId c b⟩
  | ptsDtsFlags =>
    obtain ⟨b, rfl, hb⟩ := oneByte_eq_ok h
    cases hb
    exact encode_of_decodePtsDtsFlags c b
  | regRead | classify | isAudio | isVideo | isPadding | hasOptional =>
    obtain ⟨b, rfl, hb⟩ := oneByte_eq_ok h
    cases hb
    exact ⟨rfl, rfl⟩

/-- Settles O3: the words of each port that decode. -/
theorem encodeDecodeAgree : Obligations.EncodeDecodeAgree := by
  unfold Obligations.EncodeDecodeAgree
  exact fun c w i h => encode_of_decode h

/-- Settles O1: the decoder run on the ten words. -/
theorem specWordsDecode : Obligations.SpecWordsDecode := by
  unfold Obligations.SpecWordsDecode
  decide

end Sys2Proof.Proofs.Words
end

section
/-! Which instruction a step runs (42_header_parser.md R194; 30_encoding.md R96, R98, R104): the word a turn puts on a
port, and for a turn of PESP the phase in PHASE, where P_PAYLOAD has two branches; and steps put end to end to runs. -/

namespace Sys2Proof.Proofs.Steps
open Sys2Proof.Machine Sys2Proof.Proofs.Turns Sys2Proof.Proofs.Stops Sys2Proof.Proofs.Words
open Sys2Proof.Proofs.Invariant

/-! ## Words on ports -/

theorem step_of_hostWord {s : State} {w : PortWord} {rest : List Turn} {i : Instr} (ht : s.turns = .host w :: rest)
    (hp : w.port.isHost = true) (hd : decode s.cfg w = .ok i) : step s = exec i { s with turns := rest } := by
  refine step_of_fetch ?_
  rw [fetch, ht]
  exact (if_pos hp).trans (fetchWord_of_decode hd)

theorem step_of_unitWord {s : State} {w : PortWord} {rest : List Turn} {i : Instr} (ht : s.turns = .unit w :: rest)
    (hp : w.port.isUnit = true) (hd : decode s.cfg w = .ok i) : step s = exec i { s with turns := rest } := by
  refine step_of_fetch ?_
  rw [fetch, ht]
  exact (if_pos hp).trans (fetchWord_of_decode hd)

theorem step_of_notHostPort {s : State} {w : PortWord} {rest : List Turn} (ht : s.turns = .host w :: rest)
    (hp : w.port.isHost = false) : step s = .refused (.notHostPort w.port) := by
  rw [step, fetch, ht]
  simp only [hp, Bool.false_eq_true, if_false]

/-- Settles O4: the fetch of the turn at the head of the list. -/
theorem stepRunsThePortWord : Obligations.StepRunsThePortWord := by
  unfold Obligations.StepRunsThePortWord
  exact fun s w rest i => ⟨step_of_hostWord, step_of_unitWord, step_of_notHostPort⟩

/-! ## The phase in PHASE -/

theorem step_of_phaseByte {s : State} {b : Byte} {i : Instr} (ht : s.pespTurn = true) (hb : phaseByte s = .ok b)
    (hd : decodePhase b = .ok i) : step s = exec i (dequeued s) := by
  have hb' : phaseByte (dequeued s) = .ok b := hb
  refine step_of_fetch ((fetch_of_pespTurn ht).trans ?_)
  rw [fetchPhase, hb']
  exact fetchWord_of_decode hd

/-- Everywhere but in P_PAYLOAD, PHASE alone says what runs. -/
theorem step_of_phase {s : State} (ht : s.pespTurn = true) (hp : s.phase ≠ Phase.pPayload.code) :
    step s = exec (phaseInstr s.phase) (dequeued s) :=
  step_of_phaseByte ht (if_neg fun ⟨h, _⟩ => hp h) (decodePhase_code s.phase)

/-- P_PAYLOAD of a continuation parse forwards (43_payload_result.md R225). -/
theorem step_of_continuation {s : State} (ht : s.pespTurn = true) (hp : s.phase = Phase.pPayload.code)
    (hs : s.cmdStart = false) : step s = exec .pPayloadFwd (dequeued s) := by
  have hb : phaseByte s = .ok (s.phase.setWidth 8) := if_neg fun h => by simp [hs] at h
  rw [step_of_phaseByte ht hb (decodePhase_code s.phase), hp]
  rfl

theorem phaseByte_of_streamId {s : State} {id : Byte} (hp : s.phase = Phase.pPayload.code) (hs : s.cmdStart = true)
    (hid : s.wk.streamId = .val id) :
    phaseByte s = .ok (if id = s.cfg.streamIds.paddingStream then payloadPadByte else s.phase.setWidth 8) := by
  rw [phaseByte, if_pos ⟨hp, hs⟩, hid]
  simp [isPaddingStream]

/-- P_PAYLOAD of a start parse of the padding stream counts its bytes (43_payload_result.md R224). -/
theorem step_of_padding {s : State} {id : Byte} (ht : s.pespTurn = true) (hp : s.phase = Phase.pPayload.code)
    (hs : s.cmdStart = true) (hid : s.wk.streamId = .val id) (hpad : id = s.cfg.streamIds.paddingStream) :
    step s = exec .pPayloadPad (dequeued s) := by
  have hb := phaseByte_of_streamId hp hs hid
  rw [if_pos hpad] at hb
  exact step_of_phaseByte ht hb rfl

/-- P_PAYLOAD of a start parse of any other stream forwards (43_payload_result.md R225). -/
theorem step_of_forwarding {s : State} {id : Byte} (ht : s.pespTurn = true) (hp : s.phase = Phase.pPayload.code)
    (hs : s.cmdStart = true) (hid : s.wk.streamId = .val id) (hpad : id ≠ s.cfg.streamIds.paddingStream) :
    step s = exec .pPayloadFwd (dequeued s) := by
  have hb := phaseByte_of_streamId hp hs hid
  rw [if_neg hpad] at hb
  rw [step_of_phaseByte ht hb (decodePhase_code s.phase), hp]
  rfl

/-- The rows of 30_encoding.md R96 with one branch are the phases that PHASE alone selects. -/
theorem phaseRows_select : ∀ r ∈ phaseRows, r.1 ≠ Phase.pPayload.code ∧ phaseInstr r.1 = r.2 := by decide

/-- Settles O5: the fetch of a turn of PESP, row by row, and by its branch in P_PAYLOAD. -/
theorem stepRunsThePhase : Obligations.StepRunsThePhase := by
  unfold Obligations.StepRunsThePhase
  intro s ht
  refine ⟨fun r hr hp => ?_, step_of_continuation ht, fun id => step_of_padding ht, fun id => step_of_forwarding ht⟩
  obtain ⟨hne, hi⟩ := phaseRows_select r hr
  have hstep := step_of_phase ht (hp ▸ hne)
  rwa [hp, hi] at hstep

/-- A turn of PESP that finds a reserved code stops there (30_encoding.md R98). -/
theorem step_of_reserved {s : State} (hp : 0x23 ≤ s.phase.toNat) (ht : s.pespTurn = true) :
    step s = .fault (.badPhase s.phase) := by
  have hne : s.phase ≠ Phase.pPayload.code := fun h => absurd (h ▸ hp) (by decide)
  rw [step_of_phase ht hne, phaseInstr_reserved s.phase hp]
  rfl

/-- Settles O39: the fault of a reserved code, and the invariant that no step writes one. -/
theorem reservedPhasesFault : Obligations.ReservedPhasesFault := by
  unfold Obligations.ReservedPhasesFault
  refine ⟨fun s code => rfl, fun s => step_of_reserved, fun s t h hstep => ?_⟩
  obtain ⟨-, -, -, ⟨-, -, hlast, -⟩, -⟩ := stepKeepsTheInvariant s t h hstep
  exact Nat.lt_succ_of_le hlast

/-! ## Runs put end to end -/

/-- `k` steps lead from `u` to `v`, and whatever follows goes on from there. -/
def Runs (k : Nat) (u v : State) : Prop := ∀ j, core.run (k + j) u = core.run j v

theorem Runs.trans {k l : Nat} {u v w : State} (h : Runs k u v) (h' : Runs l v w) : Runs (k + l) u w := by
  intro j
  rw [Nat.add_assoc, h, h']

theorem runs_one {u v : State} (h : step u = .next v) : Runs 1 u v := by
  intro j
  rw [Nat.add_comm]
  simp only [Host.Core.run, show core.step u = .next v from h]

theorem Runs.run {k : Nat} {u v : State} (h : Runs k u v) : core.run k u = .next v := h 0

theorem dequeued_of_nil {s : State} (h : s.turns = []) : dequeued s = s := by
  rw [dequeued, show s.turns.tail = s.turns by rw [h]; rfl]

theorem pespTurn_of_nil {s : State} (h : s.turns = []) : s.pespTurn = true := by rw [State.pespTurn, h]; rfl

end Sys2Proof.Proofs.Steps
end

section
/-! The rows of the stream-id map and of the PTS_DTS_flags table as operations (30_encoding.md R86, R94), the agreement
with P_LEN (42_header_parser.md R164), and the two phases in front of a timestamp that check four bits (R179, R186). -/

namespace Sys2Proof.Proofs.Rows
open Sys2Proof.Machine Sys2Proof.Proofs.Moves Sys2Proof.Proofs.Words

/-! ## The stream-id map -/

/-- Settles O15: each row answers its columns and goes to its path. -/
theorem streamIdRowsSelectThePath : Obligations.StreamIdRowsSelectThePath := by
  unfold Obligations.StreamIdRowsSelectThePath
  intro s a v o
  simp only [List.forall_mem_cons, List.not_mem_nil, false_implies, implies_true, and_true]
  exact ⟨⟨rfl, rfl, rfl, rfl, rfl, rfl, rfl, rfl⟩, rfl, rfl, rfl⟩

/-- The instruction an id decodes to is the row of the id's class. -/
theorem exec_decodeStreamId (c : Config) (id : Byte) (s : State) :
    exec (decodeStreamId c id) s = selectRow (streamClass c.streamIds id) s := by
  rw [decodeStreamId]
  cases streamClass c.streamIds id <;> rfl

/-- With distinct ids the map's columns are the two predicates (41_classifier.md R142, R143): the first eight rows are
those of NOHDR, and only the second is the padding stream's. -/
theorem streamClass_columns {t : StreamIdTable} (ht : t.noHdr.Nodup) (id : Byte) :
    (streamClass t id).hasOpt = hasOptionalHeader t id ∧ (streamClass t id).isPad = isPaddingStream t id := by
  rw [streamClass_eq]
  simp only [StreamIdTable.noHdr, List.nodup_cons, List.mem_cons, not_or] at ht
  simp only [hasOptionalHeader, isPaddingStream, StreamIdTable.noHdr]
  split_ifs <;> simp_all [StreamClass.hasOpt, StreamClass.isPad]

theorem execPLen_of_readable {s : State} {id : Byte} (hr : s.readable 16) (hid : s.wk.streamId = .val id) :
    exec .pLen s = .next (((s.advance 16).setWk
      { s.wk with packetLength := .val (BitVec.ofNat 16 (streamValue s.inBuf s.pos 16)) }).goto
        (if hasOptionalHeader s.cfg.streamIds id then .pFixed else .pPayload)) := by
  rw [exec, execPLen, readField_of_readable hr]
  simp only [State.setWk_wk, State.advance_wk, hid, needs_val]
  rfl

/-- Settles O16: the row of the id's class and P_LEN go by the same predicate. -/
theorem streamIdRowsAgreeWithPLen : Obligations.StreamIdRowsAgreeWithPLen := by
  unfold Obligations.StreamIdRowsAgreeWithPLen
  intro s t u id i hcfg hid hd ht hr hu
  obtain rfl : decodeStreamId s.cfg id = i := Except.ok.inj hd
  have hnodup : s.cfg.streamIds.noHdr.Nodup := by
    rw [Config.wf, Bool.and_eq_true, decide_eq_true_eq, decide_eq_true_eq] at hcfg
    exact hcfg.right
  obtain ⟨hopt, hpad⟩ := streamClass_columns hnodup id
  rw [exec_decodeStreamId] at ht
  rw [execPLen_of_readable hr hid] at hu
  obtain rfl := Host.Outcome.next.inj ht
  obtain rfl := Host.Outcome.next.inj hu
  rw [← hopt, ← hpad]
  exact ⟨rfl, _, _, rfl⟩

/-! ## The PTS_DTS_flags table -/

/-- Settles O17: what P_PDF does with the value of each row. -/
theorem ptsDtsFlagsRows : Obligations.PtsDtsFlagsRows := by
  unfold Obligations.PtsDtsFlagsRows
  intro s ext
  simp only [List.forall_mem_cons, List.not_mem_nil, false_implies, implies_true, and_true]
  refine ⟨⟨rfl, rfl, rfl⟩, fun hp => ?_, fun hp => ?_⟩
  · exact (flagsRead_eq _ _).trans (congrArg _ (if_neg (by simp [hp])))
  · exact (flagsRead_eq _ _).trans (congrArg _ (if_pos (by simp [hp])))

/-! ## The four bits in front of a timestamp -/

theorem truncates_of_readField {i : Instr} {n : Nat} {s : State} {k : Nat → State → Out} (hn : 1 ≤ n)
    (h : exec i s = readField n s k) : truncates i n s :=
  fun hw hshort => h.trans (readField_short hn hw hshort k)

theorem execPPtsPfx_of_readable {s : State} {flags : BitVec 2} (hr : s.readable 4)
    (hf : s.wk.ptsDtsFlags = .val flags) :
    exec .pPtsPfx s = .next (if streamValue s.inBuf s.pos 4 = flags.toNat then (s.advance 4).goto .pPtsHi
      else failed .malformed .badPtsPrefix (s.advance 4)) := by
  rw [exec, execPPtsPfx, readField_of_readable hr]
  simp only [State.advance_wk, hf, needs_val, terminate_malformed, ite_not]
  exact (apply_ite Host.Outcome.next _ _ _).symm

theorem execPDtsPfx_of_readable {s : State} (hr : s.readable 4) :
    exec .pDtsPfx s = .next (if streamValue s.inBuf s.pos 4 = 0b0001 then (s.advance 4).goto .pDtsHi
      else failed .malformed .badDtsPrefix (s.advance 4)) := by
  rw [exec, execPDtsPfx, readField_of_readable hr]
  simp only [terminate_malformed, ite_not]
  exact (apply_ite Host.Outcome.next _ _ _).symm

/-- Settles O28: the two checks of a field of four bits, and the field that does not fit. -/
theorem prefixesChecked : Obligations.PrefixesChecked := by
  unfold Obligations.PrefixesChecked
  intro s flags
  exact ⟨truncates_of_readField (by decide) rfl, fun hr hf => execPPtsPfx_of_readable hr hf,
    truncates_of_readField (by decide) rfl, fun hr => execPDtsPfx_of_readable hr⟩

end Sys2Proof.Proofs.Rows
end

section
/-! Fields that stand in the stream: which bits a value occupies in `IN[0..L-1]`, taken apart and put together along
`++` and along bytes, and the five bytes of a timestamp field (30_encoding.md R87, R90; 42_header_parser.md R193). -/

namespace Sys2Proof.Proofs.Fields
open Sys2Proof.Machine Sys2Proof.Proofs.Reader

/-- The field with value `x` stands at stream bit `i` of `IN[0..L-1]`: it fits, its bytes are written, and its bits are
those of `x` (20_memory.md R63 to R65). -/
structure Stands {n : Nat} (m : Memory) (L i : Nat) (x : BitVec n) : Prop where
  fits : i + n ≤ 8 * L
  written : ∀ j, i ≤ j → j < i + n → ∃ b, Memory.read m (j / 8) = .val b
  value : streamValue m i n = x.toNat

section
variable {m : Memory} {L i n k : Nat}

theorem stands_byte {a : Nat} {b : Byte} (ha : a < L) (h : Memory.read m a = .val b) : Stands m L (8 * a) b where
  fits := by omega
  written j hlo hhi := ⟨b, by rw [show j / 8 = a by omega, h]⟩
  value := streamValue_byte h

theorem Stands.append {x : BitVec n} {y : BitVec k} (hx : Stands m L i x) (hy : Stands m L (i + n) y) :
    Stands m L i (x ++ y) where
  fits := Nat.add_assoc i n k ▸ hy.fits
  written j hlo hhi := by
    rcases Nat.lt_or_ge j (i + n) with hj | hj
    · exact hx.written j hlo hj
    · exact hy.written j hj (by omega)
  value := streamValue_append hx.value hy.value

/-- A field of two parts has each part where its bits are. -/
theorem Stands.split {x : BitVec n} {y : BitVec k} (h : Stands m L i (x ++ y)) :
    Stands m L i x ∧ Stands m L (i + n) y := by
  obtain ⟨hfits, hwritten, hvalue⟩ := h
  rw [streamValue_add, BitVec.toNat_append, ← Nat.shiftLeft_add_eq_or_of_lt y.isLt, Nat.shiftLeft_eq] at hvalue
  have hlo := streamValue_lt m (i + n) k
  have hy : streamValue m (i + n) k = y.toNat := by
    have := congrArg (· % 2 ^ k) hvalue
    simpa [Nat.mod_eq_of_lt hlo, Nat.mod_eq_of_lt y.isLt] using this
  have hx : streamValue m i n = x.toNat :=
    Nat.eq_of_mul_eq_mul_right (Nat.two_pow_pos k) (by omega)
  exact ⟨⟨by omega, fun j h1 h2 => hwritten j h1 (by omega), hx⟩,
    ⟨by omega, fun j h1 h2 => hwritten j (by omega) (by omega), hy⟩⟩

theorem Stands.ofNat_value {x : BitVec n} (h : Stands m L i x) : BitVec.ofNat n (streamValue m i n) = x := by
  rw [h.value, BitVec.ofNat_toNat, BitVec.setWidth_eq]

/-- A field of one bit that is 1. -/
theorem Stands.streamBit_of_one (h : Stands m L i 1#1) : streamBit m i = true := by
  have hvalue := h.value
  rw [streamValue_one] at hvalue
  cases hb : streamBit m i with
  | true => rfl
  | false => rw [hb] at hvalue; cases hvalue

end

/-! ## Bytes -/

theorem range_cons {m : Memory} {a k : Nat} {b : Byte} {bs : List Byte}
    (h : Memory.range m a (k + 1) = .ok (b :: bs)) : Memory.read m a = .val b ∧ Memory.range m (a + 1) k = .ok bs := by
  rw [Memory.range] at h
  split at h
  · cases h
  · split at h
    · cases h
    · rename_i hread _ _ hrange
      cases h
      exact ⟨hread, hrange⟩

/-- The first bytes of a range, and the rest behind them. -/
theorem range_append {m : Memory} {a : Nat} {xs ys : List Byte}
    (h : Memory.range m a (xs ++ ys).length = .ok (xs ++ ys)) :
    Memory.range m a xs.length = .ok xs ∧ Memory.range m (a + xs.length) ys.length = .ok ys := by
  induction xs generalizing a with
  | nil => exact ⟨rfl, h⟩
  | cons x xs ih =>
    obtain ⟨hread, hrest⟩ := range_cons h
    obtain ⟨hxs, hys⟩ := ih hrest
    refine ⟨by simp only [List.length_cons, Memory.range, hread, hxs], ?_⟩
    rwa [List.length_cons, Nat.add_comm xs.length 1, ← Nat.add_assoc]

/-- The bytes of a range stand at their addresses. -/
theorem stands_of_range {m : Memory} {L a k : Nat} {bs : List Byte} (h : Memory.range m a k = .ok bs)
    (hL : a + k ≤ L) (j : Nat) {b : Byte} (hb : bs[j]? = some b) : Stands m L (8 * (a + j)) b := by
  obtain ⟨hlen, hread⟩ := Memory.range_ok h
  obtain ⟨hj, rfl⟩ := List.getElem?_eq_some_iff.mp hb
  exact stands_byte (by omega) (hread j hj)

/-! ## Timestamps -/

/-- The segments of a timestamp stand side by side in it (42_header_parser.md R193). -/
theorem assembleTimestamp_eq_append (hi : BitVec 3) (mid lo : BitVec 15) :
    assembleTimestamp hi mid lo = hi ++ mid ++ lo := by
  have h : (hi ++ mid ++ lo).setWidth 33 = _ := BitVec.setWidth_append_append_eq_shiftLeft_setWidth_or
  rw [BitVec.setWidth_eq] at h
  exact h.symm

theorem assembleTimestamp_segments (T : BitVec 33) :
    assembleTimestamp (T.extractLsb' 30 3) (T.extractLsb' 15 15) (T.extractLsb' 0 15) = T := by
  have hhigh : T.extractLsb' 30 3 ++ T.extractLsb' 15 15 = T.extractLsb' 15 18 :=
    BitVec.extractLsb'_append_extractLsb'_eq_extractLsb' rfl
  have hall : T.extractLsb' 15 18 ++ T.extractLsb' 0 15 = T.extractLsb' 0 33 :=
    BitVec.extractLsb'_append_extractLsb'_eq_extractLsb' rfl
  rw [assembleTimestamp_eq_append, hhigh, hall, BitVec.extractLsb'_eq_self]

theorem segments_of_assembled (hi : BitVec 3) (mid lo : BitVec 15) :
    (assembleTimestamp hi mid lo).extractLsb' 30 3 = hi ∧ (assembleTimestamp hi mid lo).extractLsb' 15 15 = mid ∧
      (assembleTimestamp hi mid lo).extractLsb' 0 15 = lo := by
  rw [assembleTimestamp_eq_append]
  refine ⟨?_, ?_, BitVec.extractLsb'_append_eq_right⟩
  · exact (BitVec.extractLsb'_append_eq_of_le (by decide)).trans BitVec.extractLsb'_append_eq_left
  · exact (BitVec.extractLsb'_append_eq_of_le (by decide)).trans BitVec.extractLsb'_append_eq_right

theorem assembleTimestamp_toNat (hi : BitVec 3) (mid lo : BitVec 15) :
    (assembleTimestamp hi mid lo).toNat = hi.toNat * 2 ^ 30 + mid.toNat * 2 ^ 15 + lo.toNat := by
  rw [assembleTimestamp_eq_append, BitVec.toNat_append, BitVec.toNat_append,
    ← Nat.shiftLeft_add_eq_or_of_lt lo.isLt, ← Nat.shiftLeft_add_eq_or_of_lt mid.isLt, Nat.shiftLeft_eq,
    Nat.shiftLeft_eq]
  ring

/-- Where the five bytes of R90 put the leading four bits, the segments and the markers of a timestamp field. -/
structure StandsTimestamp (m : Memory) (L i : Nat) (p : BitVec 4) (T : BitVec 33) : Prop where
  pfx : Stands m L i p
  hi : Stands m L (i + 4) (T.extractLsb' 30 3)
  marker0 : Stands m L (i + 7) 1#1
  mid : Stands m L (i + 8) (T.extractLsb' 15 15)
  marker1 : Stands m L (i + 23) 1#1
  lo : Stands m L (i + 24) (T.extractLsb' 0 15)
  marker2 : Stands m L (i + 39) 1#1

theorem standsTimestamp_of_range {m : Memory} {L a : Nat} {p : BitVec 4} {T : BitVec 33}
    (h : Memory.range m a 5 = .ok (timestampBytes p T)) (hL : a + 5 ≤ L) : StandsTimestamp m L (8 * a) p T := by
  have hbyte := stands_of_range h hL
  obtain ⟨hfirst, hmarker0⟩ := Stands.split (x := p ++ T.extractLsb' 30 3) (y := 1#1) (hbyte 0 rfl)
  obtain ⟨hpfx, hhi⟩ := hfirst.split
  have hmidHigh : Stands m L (8 * a + 8) (T.extractLsb' 22 8) := hbyte 1 rfl
  obtain ⟨hmidLow, hmarker1⟩ := Stands.split (x := T.extractLsb' 15 7) (y := 1#1) (hbyte 2 rfl)
  have hloHigh : Stands m L (8 * a + 24) (T.extractLsb' 7 8) := hbyte 3 rfl
  obtain ⟨hloLow, hmarker2⟩ := Stands.split (x := T.extractLsb' 0 7) (y := 1#1) (hbyte 4 rfl)
  have hmid : T.extractLsb' 22 8 ++ T.extractLsb' 15 7 = T.extractLsb' 15 15 :=
    BitVec.extractLsb'_append_extractLsb'_eq_extractLsb' rfl
  have hlo : T.extractLsb' 7 8 ++ T.extractLsb' 0 7 = T.extractLsb' 0 15 :=
    BitVec.extractLsb'_append_extractLsb'_eq_extractLsb' rfl
  exact ⟨hpfx, hhi, hmarker0, hmid ▸ hmidHigh.append hmidLow, hmarker1, hlo ▸ hloHigh.append hloLow, hmarker2⟩

theorem StandsTimestamp.assembled {m : Memory} {L i : Nat} {p : BitVec 4} {T : BitVec 33}
    (h : StandsTimestamp m L i p T) :
    assembleTimestamp (BitVec.ofNat 3 (streamValue m (i + 4) 3)) (BitVec.ofNat 15 (streamValue m (i + 8) 15))
      (BitVec.ofNat 15 (streamValue m (i + 24) 15)) = T := by
  rw [h.hi.ofNat_value, h.mid.ofNat_value, h.lo.ofNat_value, assembleTimestamp_segments]

/-- Settles O32: an assembled timestamp is its segments side by side, and the bytes of R90 hold them. -/
theorem timestampRoundTrip : Obligations.TimestampRoundTrip := by
  unfold Obligations.TimestampRoundTrip
  constructor
  · intro hi mid lo T
    obtain ⟨hhi, hmid, hlo⟩ := segments_of_assembled hi mid lo
    exact ⟨hhi, hmid, hlo, assembleTimestamp_toNat hi mid lo⟩
  · intro m a p T h i
    have hfield : StandsTimestamp m (a + 5) i p T := standsTimestamp_of_range h le_rfl
    exact ⟨hfield.pfx.value, hfield.marker0.streamBit_of_one, hfield.marker1.streamBit_of_one,
      hfield.marker2.streamBit_of_one, hfield.hi.value, hfield.mid.value, hfield.lo.value, hfield.assembled⟩

end Sys2Proof.Proofs.Fields
end

section
/-! Start parses that find what they look for (30_encoding.md R82, R97): a phase whose field stands at POS takes one
step to the next phase, and the phases of each part of a header are put end to end. -/

namespace Sys2Proof.Proofs.PhaseRuns
open Sys2Proof.Machine Sys2Proof.Proofs.Turns Sys2Proof.Proofs.Steps Sys2Proof.Proofs.Fields Sys2Proof.Proofs.Stops
open Sys2Proof.Proofs.Commit Sys2Proof.Proofs.Invariant

theorem needs_of_eq {α : Type} {r : RegName} {v : Poisonable α} {x : α} (h : v = .val x) (k : α → Out) :
    needs r v k = k x := by rw [h, needs_val]

/-! ## Phases that find their field -/

/-- The start parse of `IN[0..L-1]` that `s` accepts, as it stands in phase `p` at bit `q` with working header `w`. -/
def inPhase (s : State) (L : Nat) (p : Phase) (q : Nat) (w : Wk) : State :=
  { accept true L s with phase := p.code, pos := q, wk := w }

section
variable {s : State} {L q n : Nat} {p p' : Phase} {w : Wk} (hcfg : s.cfg.wf = true) (ht : s.turns = [])

include hcfg in
/-- A phase that finds the field `x` at POS goes on with its value. -/
theorem readField_inPhase {x : BitVec n} (hx : Stands s.inBuf L q x) (hn : 1 ≤ n ∧ n ≤ 24)
    (k : Nat → State → Out) :
    readField n (inPhase s L p q w) k = k x.toNat (inPhase s L p (q + n) w) := by
  obtain ⟨h1, h24⟩ := hn
  have hr : (inPhase s L p q w).readable n := ⟨h1, readWidth_of_wf hcfg h24, hx.fits, hx.written⟩
  rw [readField_of_readable hr, show streamValue (inPhase s L p q w).inBuf (inPhase s L p q w).pos n = x.toNat from
    hx.value]
  rfl

include ht in
theorem step_inPhase (hp : p.code ≠ Phase.pPayload.code) :
    step (inPhase s L p q w) = exec (phaseInstr p.code) (inPhase s L p q w) := by
  have hnil : (inPhase s L p q w).turns = [] := ht
  have hstep := step_of_phase (s := inPhase s L p q w) (pespTurn_of_nil hnil) hp
  rwa [dequeued_of_nil hnil] at hstep

include hcfg ht

/-- A phase that reads a field, finds it and goes on. -/
theorem runs_reads (p : Phase) {k : Nat → State → Out} {x : BitVec n} {t : State} (hx : Stands s.inBuf L q x)
    (hi : ∀ u, exec (phaseInstr p.code) u = readField n u k)
    (hk : k x.toNat (inPhase s L p (q + n) w) = .next t) (hp : p.code ≠ Phase.pPayload.code := by decide)
    (hn : 1 ≤ n ∧ n ≤ 24 := by decide) : Runs 1 (inPhase s L p q w) t :=
  runs_one <| (step_inPhase ht hp).trans <| (hi _).trans <| (readField_inPhase hcfg hx hn k).trans hk

/-- A phase that records its field. -/
theorem runs_records (p : Phase) (write : BitVec n → Wk → Wk) {x : BitVec n} (hx : Stands s.inBuf L q x)
    (hi : ∀ u, exec (phaseInstr p.code) u = fieldPhase n write p' u)
    (hp : p.code ≠ Phase.pPayload.code := by decide) (hn : 1 ≤ n ∧ n ≤ 24 := by decide) :
    Runs 1 (inPhase s L p q w) (inPhase s L p' (q + n) (write x w)) := by
  refine runs_reads hcfg ht p hx hi ?_ hp hn
  rw [BitVec.ofNat_toNat, BitVec.setWidth_eq]
  rfl

/-- A phase that checks a marker, and finds it. -/
theorem runs_marker {c : Cause} (hx : Stands s.inBuf L q 1#1)
    (hi : ∀ u, exec (phaseInstr p.code) u = markerPhase c (fun v => .next (v.goto p')) u)
    (hp : p.code ≠ Phase.pPayload.code := by decide) :
    Runs 1 (inPhase s L p q w) (inPhase s L p' (q + 1) w) :=
  runs_reads hcfg ht p hx hi rfl hp

/-! ## The fixed part -/

/-- The working header behind the fixed part. -/
abbrev fixedPartWk (sid : Byte) (plen : BitVec 16) : Wk :=
  { Wk.poison with startCode := .val 0x000001, streamId := .val sid, packetLength := .val plen }

theorem runs_pStart (hx : Stands s.inBuf L q (0x000001 : BitVec 24)) :
    Runs 1 (inPhase s L .pStart q w) (inPhase s L .pSid (q + 24) { w with startCode := .val 0x000001 }) :=
  runs_reads hcfg ht .pStart hx (fun _ => rfl) rfl

theorem runs_pLen {id : Byte} {x : BitVec 16} (hx : Stands s.inBuf L q x) (hid : w.streamId = .val id)
    (hopt : id ∉ s.cfg.streamIds.noHdr) :
    Runs 1 (inPhase s L .pLen q w) (inPhase s L .pFixed (q + 16) { w with packetLength := .val x }) := by
  refine runs_reads hcfg ht .pLen hx (fun _ => rfl) ((needs_of_eq hid _).trans ?_)
  rw [BitVec.ofNat_toNat, BitVec.setWidth_eq]
  exact congrArg (fun p => Host.Outcome.next (State.goto _ p)) (if_pos (hasOptionalHeader_eq_true_iff.mpr hopt))

theorem runs_fixedPart {sid : Byte} {plen : BitVec 16} (h : Memory.range s.inBuf 0 6 = .ok (fixedPartBytes sid plen))
    (hL : 6 ≤ L) (hopt : sid ∉ s.cfg.streamIds.noHdr) :
    Runs 3 (accept true L s) (inPhase s L .pFixed 48 (fixedPartWk sid plen)) := by
  have hbyte := stands_of_range (L := L) h hL
  have hsc0 : Stands s.inBuf L 0 (0x00 : Byte) := hbyte 0 rfl
  have hsc1 : Stands s.inBuf L 8 (0x00 : Byte) := hbyte 1 rfl
  have hsc2 : Stands s.inBuf L 16 (0x01 : Byte) := hbyte 2 rfl
  have hsid : Stands s.inBuf L 24 sid := hbyte 3 rfl
  have hhigh : Stands s.inBuf L 32 (plen.extractLsb' 8 8) := hbyte 4 rfl
  have hlow : Stands s.inBuf L 40 (plen.extractLsb' 0 8) := hbyte 5 rfl
  have hsc : Stands s.inBuf L 0 (0x000001 : BitVec 24) := (hsc0.append hsc1).append hsc2
  have hplen : plen.extractLsb' 8 8 ++ plen.extractLsb' 0 8 = plen :=
    (BitVec.extractLsb'_append_extractLsb'_eq_extractLsb' rfl).trans BitVec.extractLsb'_eq_self
  have hlen : Stands s.inBuf L 32 plen := hplen ▸ hhigh.append hlow
  exact (runs_pStart hcfg ht hsc).trans <|
    (runs_records hcfg ht .pSid (fun v w => { w with streamId := .val v }) hsid fun _ => rfl).trans <|
    runs_pLen hcfg ht hlen (by rfl) hopt

/-! ## The flag cluster -/

/-- The working header behind a flag cluster with no extension flag. -/
abbrev flagClusterWk (w : Wk) (scr : BitVec 2) (pri dai cpy ooc : BitVec 1) (pdf : BitVec 2) (hdl : Byte) : Wk :=
  { w with
    fixed := .val 0b10, scrambling := .val scr, priority := .val pri, dai := .val dai, copyright := .val cpy,
    original := .val ooc, ptsDtsFlags := .val pdf, escrFlag := .val 0, esRateFlag := .val 0, dsmTrickFlag := .val 0,
    aciFlag := .val 0, crcFlag := .val 0, extFlag := .val 0, hdl := .val hdl }

theorem runs_pFixed (hx : Stands s.inBuf L q (0b10 : BitVec 2)) :
    Runs 1 (inPhase s L .pFixed q w) (inPhase s L .pScr (q + 2) { w with fixed := .val 0b10 }) :=
  runs_reads hcfg ht .pFixed hx (fun _ => rfl) rfl

theorem runs_pPdf {f : BitVec 2} (hx : Stands s.inBuf L q f) (hf : f ≠ 0b01) :
    Runs 1 (inPhase s L .pPdf q w) (inPhase s L .pEscrf (q + 2) { w with ptsDtsFlags := .val f }) := by
  refine runs_reads hcfg ht .pPdf hx (fun _ => rfl) ?_
  rw [flagsRead_eq, BitVec.ofNat_toNat, BitVec.setWidth_eq,
    if_neg fun ⟨h, _⟩ => hf h]
  rfl

theorem runs_pHdl {f : BitVec 2} {x : Byte} (hx : Stands s.inBuf L q x) (hf : w.ptsDtsFlags = .val f)
    (hpts : (timestampFields f).hasPts = true) :
    Runs 1 (inPhase s L .pHdl q w) (inPhase s L .pPtsPfx (q + 8) { w with hdl := .val x }) := by
  refine runs_reads hcfg ht .pHdl hx (fun _ => rfl) ((needs_of_eq hf _).trans ?_)
  rw [BitVec.ofNat_toNat, BitVec.setWidth_eq]
  exact congrArg (fun p => Host.Outcome.next (State.goto _ p)) (if_pos hpts)

/-- The first byte of the cluster. -/
theorem runs_flags1 {scr : BitVec 2} {pri dai cpy ooc : BitVec 1}
    (h : Stands s.inBuf L 48 (0b10#2 ++ scr ++ pri ++ dai ++ cpy ++ ooc)) :
    Runs 6 (inPhase s L .pFixed 48 w) (inPhase s L .pPdf 56 { w with
      fixed := .val 0b10, scrambling := .val scr, priority := .val pri, dai := .val dai, copyright := .val cpy,
      original := .val ooc }) := by
  obtain ⟨h, hooc⟩ := h.split
  obtain ⟨h, hcpy⟩ := h.split
  obtain ⟨h, hdai⟩ := h.split
  obtain ⟨h, hpri⟩ := h.split
  obtain ⟨hfixed, hscr⟩ := h.split
  have hrun := runs_pFixed (w := w) hcfg ht hfixed
  replace hrun := hrun.trans (runs_records hcfg ht .pScr (fun v w => { w with scrambling := .val v }) hscr fun _ => rfl)
  replace hrun := hrun.trans (runs_records hcfg ht .pPri (fun v w => { w with priority := .val v }) hpri fun _ => rfl)
  replace hrun := hrun.trans (runs_records hcfg ht .pDai (fun v w => { w with dai := .val v }) hdai fun _ => rfl)
  replace hrun := hrun.trans (runs_records hcfg ht .pCpy (fun v w => { w with copyright := .val v }) hcpy fun _ => rfl)
  exact hrun.trans (runs_records hcfg ht .pOoc (fun v w => { w with original := .val v }) hooc fun _ => rfl)

/-- The second byte of the cluster, with no extension flag set. -/
theorem runs_flags2 {pdf : BitVec 2} (h : Stands s.inBuf L 56 (pdf ++ (0 : BitVec 6))) (hf : pdf ≠ 0b01) :
    Runs 7 (inPhase s L .pPdf 56 w) (inPhase s L .pHdl 64 { w with
      ptsDtsFlags := .val pdf, escrFlag := .val 0, esRateFlag := .val 0, dsmTrickFlag := .val 0, aciFlag := .val 0,
      crcFlag := .val 0, extFlag := .val 0 }) := by
  obtain ⟨hpdf, h⟩ := h.split
  obtain ⟨h, hextf⟩ := Stands.split (x := 0#1 ++ 0#1 ++ 0#1 ++ 0#1 ++ 0#1) (y := 0#1) h
  obtain ⟨h, hcrcf⟩ := h.split
  obtain ⟨h, hacif⟩ := h.split
  obtain ⟨h, hdsmf⟩ := h.split
  obtain ⟨hescr, hesr⟩ := h.split
  have hrun := runs_pPdf (w := w) hcfg ht hpdf hf
  replace hrun :=
    hrun.trans (runs_records hcfg ht .pEscrf (fun v w => { w with escrFlag := .val v }) hescr fun _ => rfl)
  replace hrun :=
    hrun.trans (runs_records hcfg ht .pEsrf (fun v w => { w with esRateFlag := .val v }) hesr fun _ => rfl)
  replace hrun :=
    hrun.trans (runs_records hcfg ht .pDsmf (fun v w => { w with dsmTrickFlag := .val v }) hdsmf fun _ => rfl)
  replace hrun := hrun.trans (runs_records hcfg ht .pAcif (fun v w => { w with aciFlag := .val v }) hacif fun _ => rfl)
  replace hrun := hrun.trans (runs_records hcfg ht .pCrcf (fun v w => { w with crcFlag := .val v }) hcrcf fun _ => rfl)
  exact hrun.trans (runs_records hcfg ht .pExtf (fun v w => { w with extFlag := .val v }) hextf fun _ => rfl)

theorem runs_flagCluster {scr : BitVec 2} {pri dai cpy ooc : BitVec 1} {pdf : BitVec 2} {hdl : Byte}
    (h : Memory.range s.inBuf 6 3 = .ok (flagClusterBytes scr pri dai cpy ooc pdf 0 hdl)) (hL : 9 ≤ L)
    (hf : pdf ≠ 0b01) (hpts : (timestampFields pdf).hasPts = true) :
    Runs 14 (inPhase s L .pFixed 48 w) (inPhase s L .pPtsPfx 72 (flagClusterWk w scr pri dai cpy ooc pdf hdl)) := by
  have hbyte := stands_of_range (L := L) h hL
  exact (runs_flags1 hcfg ht (hbyte 0 rfl)).trans <| (runs_flags2 hcfg ht (hbyte 1 rfl) hf).trans <|
    runs_pHdl hcfg ht (hbyte 2 rfl) rfl hpts

/-! ## The timestamps -/

/-- The working header behind a PTS field. -/
abbrev ptsWk (w : Wk) (T : BitVec 33) : Wk :=
  { w with
    ptsHi := .val (T.extractLsb' 30 3), ptsMid := .val (T.extractLsb' 15 15), ptsLo := .val (T.extractLsb' 0 15),
    pts := .val T }

/-- The working header behind a DTS field. -/
abbrev dtsWk (w : Wk) (T : BitVec 33) : Wk :=
  { w with
    dtsHi := .val (T.extractLsb' 30 3), dtsMid := .val (T.extractLsb' 15 15), dtsLo := .val (T.extractLsb' 0 15),
    dts := .val T }

theorem runs_pPtsPfx {x : BitVec 4} {f : BitVec 2} (hx : Stands s.inBuf L q x) (hf : w.ptsDtsFlags = .val f)
    (heq : x.toNat = f.toNat) : Runs 1 (inPhase s L .pPtsPfx q w) (inPhase s L .pPtsHi (q + 4) w) :=
  runs_reads hcfg ht .pPtsPfx hx (fun _ => rfl) ((needs_of_eq hf _).trans (if_neg (not_not.mpr heq)))

theorem runs_pPtsM2 {f : BitVec 2} {hi : BitVec 3} {mid lo : BitVec 15} (hx : Stands s.inBuf L q 1#1)
    (hhi : w.ptsHi = .val hi) (hmid : w.ptsMid = .val mid) (hlo : w.ptsLo = .val lo) (hf : w.ptsDtsFlags = .val f) :
    Runs 1 (inPhase s L .pPtsM2 q w)
      (inPhase s L (if (timestampFields f).hasDts then .pDtsPfx else .pExtchk) (q + 1)
        { w with pts := .val (assembleTimestamp hi mid lo) }) :=
  runs_reads hcfg ht .pPtsM2 hx (fun _ => rfl) <| (needs_of_eq hhi _).trans <| (needs_of_eq hmid _).trans <|
    (needs_of_eq hlo _).trans <| (needs_of_eq hf _).trans rfl

/-- A PTS field, and on to the DTS field or to P_EXTCHK. -/
theorem runs_pts {x : BitVec 4} {T : BitVec 33} {f : BitVec 2} (h : StandsTimestamp s.inBuf L q x T)
    (hf : w.ptsDtsFlags = .val f) (heq : x.toNat = f.toNat) :
    Runs 7 (inPhase s L .pPtsPfx q w)
      (inPhase s L (if (timestampFields f).hasDts then .pDtsPfx else .pExtchk) (q + 40) (ptsWk w T)) := by
  have hrun := runs_pPtsPfx hcfg ht h.pfx hf heq
  replace hrun := hrun.trans (runs_records hcfg ht .pPtsHi (fun v w => { w with ptsHi := .val v }) h.hi fun _ => rfl)
  replace hrun := hrun.trans (runs_marker hcfg ht h.marker0 fun _ => rfl)
  replace hrun := hrun.trans (runs_records hcfg ht .pPtsMid (fun v w => { w with ptsMid := .val v }) h.mid fun _ => rfl)
  replace hrun := hrun.trans (runs_marker hcfg ht h.marker1 fun _ => rfl)
  replace hrun := hrun.trans (runs_records hcfg ht .pPtsLo (fun v w => { w with ptsLo := .val v }) h.lo fun _ => rfl)
  replace hrun := hrun.trans (runs_pPtsM2 hcfg ht h.marker2 rfl rfl rfl hf)
  rwa [assembleTimestamp_segments] at hrun

theorem runs_pDtsPfx (hx : Stands s.inBuf L q (0b0001 : BitVec 4)) :
    Runs 1 (inPhase s L .pDtsPfx q w) (inPhase s L .pDtsHi (q + 4) w) :=
  runs_reads hcfg ht .pDtsPfx hx (fun _ => rfl) rfl

theorem runs_pDtsM2 {hi : BitVec 3} {mid lo : BitVec 15} (hx : Stands s.inBuf L q 1#1)
    (hhi : w.dtsHi = .val hi) (hmid : w.dtsMid = .val mid) (hlo : w.dtsLo = .val lo) :
    Runs 1 (inPhase s L .pDtsM2 q w)
      (inPhase s L .pExtchk (q + 1) { w with dts := .val (assembleTimestamp hi mid lo) }) :=
  runs_reads hcfg ht .pDtsM2 hx (fun _ => rfl) <| (needs_of_eq hhi _).trans <| (needs_of_eq hmid _).trans <|
    (needs_of_eq hlo _).trans rfl

/-- A DTS field. -/
theorem runs_dts {T : BitVec 33} (h : StandsTimestamp s.inBuf L q 0b0001 T) :
    Runs 7 (inPhase s L .pDtsPfx q w) (inPhase s L .pExtchk (q + 40) (dtsWk w T)) := by
  have hrun := runs_pDtsPfx (w := w) hcfg ht h.pfx
  replace hrun := hrun.trans (runs_records hcfg ht .pDtsHi (fun v w => { w with dtsHi := .val v }) h.hi fun _ => rfl)
  replace hrun := hrun.trans (runs_marker hcfg ht h.marker0 fun _ => rfl)
  replace hrun := hrun.trans (runs_records hcfg ht .pDtsMid (fun v w => { w with dtsMid := .val v }) h.mid fun _ => rfl)
  replace hrun := hrun.trans (runs_marker hcfg ht h.marker1 fun _ => rfl)
  replace hrun := hrun.trans (runs_records hcfg ht .pDtsLo (fun v w => { w with dtsLo := .val v }) h.lo fun _ => rfl)
  replace hrun := hrun.trans (runs_pDtsM2 hcfg ht h.marker2 rfl rfl rfl)
  rwa [assembleTimestamp_segments] at hrun

end

/-! ## The payload and the verdict -/

theorem runs_pExtchk {s : State} {L q : Nat} {w : Wk} (ht : s.turns = []) (hext : w.extFlags = .ok 0) :
    Runs 1 (inPhase s L .pExtchk q w) (inPhase s L .pPayload q w) := by
  refine runs_one ((step_inPhase ht (by decide)).trans ?_)
  change execPExtchk (inPhase s L .pExtchk q w) = _
  rw [execPExtchk, show (inPhase s L .pExtchk q w).wk.extFlags = .ok 0 from hext]
  rfl

/-- The start parse in P_COMMIT, behind a payload that begins at byte `o`. -/
def forwarded (s : State) (L o : Nat) (w : Wk) (payload : List Byte) : State :=
  { inPhase s L .pCommit (8 * L) w with
    sinkLog := s.sinkLog ++ [payload], status := { Status.zero with busy := true, fed := true },
    feedOffset := .val o, feedLen := .val (L - o), consumed := .val (L - o) }

theorem runs_pPayload {s : State} {L o : Nat} {w : Wk} {id : Byte} {payload : List Byte} (ht : s.turns = [])
    (hid : w.streamId = .val id) (hopt : id ∉ s.cfg.streamIds.noHdr)
    (hrange : Memory.range s.inBuf o (L - o) = .ok payload) :
    Runs 1 (inPhase s L .pPayload (8 * o) w) (forwarded s L o w payload) := by
  have hnil : (inPhase s L .pPayload (8 * o) w).turns = [] := ht
  have hpad : id ≠ s.cfg.streamIds.paddingStream := by
    rintro rfl
    exact hopt (by simp [StreamIdTable.noHdr])
  have hstep := step_of_forwarding (pespTurn_of_nil hnil) rfl rfl hid hpad
  rw [dequeued_of_nil hnil] at hstep
  have hbyte : currentByte (inPhase s L .pPayload (8 * o) w) = some o := by
    simp [currentByte, inPhase]
  refine runs_one (hstep.trans ?_)
  rw [exec, execPPayloadFwd, hbyte]
  dsimp only
  rw [show Memory.range (inPhase s L .pPayload (8 * o) w).inBuf o ((inPhase s L .pPayload (8 * o) w).len - o) =
    .ok payload from hrange]
  rfl

/-- P_COMMIT of a start parse whose optional header has other flags than 0b01 commits it (60_exceptions.md R256). -/
theorem execPCommit_of_optional {u : State} {id : Byte} {f : BitVec 2} {hc : HeaderCommit} (hs : u.cmdStart = true)
    (hid : u.wk.streamId = .val id) (hopt : id ∉ u.cfg.streamIds.noHdr) (hf : u.wk.ptsDtsFlags = .val f)
    (hne : f ≠ 0b01) (hok : commitHeader u.cfg.streamIds u.wk = .ok hc) :
    exec .pCommit u = .next (committed u hc) := by
  rw [exec, execPCommit, if_pos hs, needs_of_eq hid, if_pos (hasOptionalHeader_eq_true_iff.mpr hopt), needs_of_eq hf,
    if_neg hne, terminate, terminateOk, if_pos hs, hok]

theorem bind_ite_of_ok {ε α β : Type} {c : Bool} {x y : Except ε α} {k : α → Except ε β} {a : α}
    (h : (if c = true then x else y) = .ok a) : (if c = true then x >>= k else y >>= k) = k a := by
  cases c with
  | false => rw [show y = .ok a from h]; rfl
  | true => rw [show x = .ok a from h]; rfl

/-- The header registers of a packet with an optional header, from the working header (10_state.md R47 to R51). -/
theorem commitHeader_of_optional {t : StreamIdTable} {w : Wk} {sc : BitVec 24} {id : Byte} {pl : BitVec 16}
    {f1 f2 hdl : Byte} {f : BitVec 2} {pts dts : Poisonable (BitVec 33)} (hsc : w.startCode = .val sc)
    (hid : w.streamId = .val id) (hopt : id ∉ t.noHdr) (hpl : w.packetLength = .val pl) (hf1 : w.flags1 = .ok f1)
    (hf2 : w.flags2 = .ok f2) (hhdl : w.hdl = .val hdl) (hf : w.ptsDtsFlags = .val f)
    (hpts : (if (timestampFields f).hasPts then (valueOf .wkPts w.pts).map .val else pure .poison) = .ok pts)
    (hdts : (if (timestampFields f).hasDts then (valueOf .wkDts w.dts).map .val else pure .poison) = .ok dts) :
    commitHeader t w = .ok
      { hdr := { fixedPartHdr sc id pl with
          flags1 := .val f1, flags2 := .val f2, hdl := .val hdl, pts := pts, dts := dts },
        id := id, hasOpt := true, fields := timestampFields f } := by
  rw [commitHeader, hsc, hid, hpl]
  change (if hasOptionalHeader t id = true then _ else _) = _
  rw [if_pos (hasOptionalHeader_eq_true_iff.mpr hopt), hf1, hf2, hhdl, hf]
  exact (bind_ite_of_ok hpts).trans (bind_ite_of_ok hdts)

/-- P_EXTCHK, P_PAYLOAD and P_COMMIT of a packet whose header ends at byte `o`. -/
theorem runs_payload {s : State} {L o : Nat} {w : Wk} {id : Byte} {f : BitVec 2} {payload : List Byte}
    {hc : HeaderCommit} (ht : s.turns = []) (hext : w.extFlags = .ok 0) (hid : w.streamId = .val id)
    (hopt : id ∉ s.cfg.streamIds.noHdr) (hf : w.ptsDtsFlags = .val f) (hne : f ≠ 0b01)
    (hok : commitHeader s.cfg.streamIds w = .ok hc)
    (hrange : Memory.range s.inBuf o (L - o) = .ok payload) :
    Runs 3 (inPhase s L .pExtchk (8 * o) w) (committed (forwarded s L o w payload) hc) := by
  have hnil : (forwarded s L o w payload).turns = [] := ht
  have hstep := step_of_phase (pespTurn_of_nil hnil) (show Phase.pCommit.code ≠ Phase.pPayload.code by decide)
  rw [dequeued_of_nil hnil] at hstep
  have hcommit := execPCommit_of_optional (u := forwarded s L o w payload) rfl hid hopt hf hne hok
  exact (runs_pExtchk ht hext).trans ((runs_pPayload ht hid hopt hrange).trans (runs_one (hstep.trans hcommit)))

end Sys2Proof.Proofs.PhaseRuns
end

section
/-! Whole packets (30_encoding.md R106): the start parse of a packet with timestamps recovers every value that was
encoded (42_header_parser.md R193) and forwards exactly the payload. -/

namespace Sys2Proof.Proofs.Packets
open Sys2Proof.Machine Sys2Proof.Proofs.Turns Sys2Proof.Proofs.Steps Sys2Proof.Proofs.Fields Sys2Proof.Proofs.Stops
open Sys2Proof.Proofs.Commit Sys2Proof.Proofs.Invariant Sys2Proof.Proofs.PhaseRuns

/-- The start parse of `bytes` ends OK after `k` steps, with the header registers `hdr` and one event, `payload`. -/
def ParsesTo (s : State) (k : Nat) (bytes payload : List Byte) (hdr : Hdr) : Prop :=
  ∃ t, core.run k (accept true bytes.length s) = .next t ∧ t.status.done = true ∧ t.status.result = .ok ∧
    t.status.valid = true ∧ t.sinkLog = s.sinkLog ++ [payload] ∧ t.hdr = hdr

theorem parsesTo_of_runs {s u : State} {k L : Nat} {bytes payload : List Byte} {hc : HeaderCommit}
    (hL : bytes.length = L) (h : Runs k (accept true L s) (committed u hc))
    (hlog : u.sinkLog = s.sinkLog ++ [payload]) : ParsesTo s k bytes payload hc.hdr :=
  ⟨committed u hc, hL ▸ h.run, rfl, rfl, rfl, hlog, rfl⟩

section
variable {s : State} {sid : Byte} {plen : BitVec 16} {scr : BitVec 2} {pri dai cpy ooc : BitVec 1} {hdl : Byte}
  {payload : List Byte} (hcfg : s.cfg.wf = true) (ht : s.turns = []) (hopt : sid ∉ s.cfg.streamIds.noHdr)
include hcfg ht hopt

/-- The fixed part and the flag cluster of a packet with a PTS. -/
theorem runs_header {pdf : BitVec 2} {L : Nat} (hL : 9 ≤ L) (hf : pdf ≠ 0b01)
    (hpts : (timestampFields pdf).hasPts = true)
    (h : Memory.range s.inBuf 0 9 = .ok (fixedPartBytes sid plen ++ flagClusterBytes scr pri dai cpy ooc pdf 0 hdl)) :
    Runs 17 (accept true L s)
      (inPhase s L .pPtsPfx 72 (flagClusterWk (fixedPartWk sid plen) scr pri dai cpy ooc pdf hdl)) := by
  obtain ⟨hfixed, hcluster⟩ :=
    range_append (xs := fixedPartBytes sid plen) (ys := flagClusterBytes scr pri dai cpy ooc pdf 0 hdl) h
  exact (runs_fixedPart hcfg ht hfixed (by omega) hopt).trans (runs_flagCluster hcfg ht hcluster hL hf hpts)

/-- The packet of `.FIX`, `.OPT` and `.PTS`. -/
theorem parsesTo_pts {T : BitVec 33} {bytes : List Byte}
    (hbytes : bytes = fixedPartBytes sid plen ++ flagClusterBytes scr pri dai cpy ooc 0b10 0 hdl ++ ptsBytes T ++
      payload) (h : Memory.range s.inBuf 0 bytes.length = .ok bytes) :
    ParsesTo s 27 bytes payload
      { startCode := .val 0x000001, streamId := .val sid, packetLength := .val plen,
        flags1 := .val (0b10#2 ++ scr ++ pri ++ dai ++ cpy ++ ooc), flags2 := .val 0x80, hdl := .val hdl,
        pts := .val T, dts := .poison } := by
  have hL : bytes.length = 14 + payload.length := hbytes ▸ List.length_append
  subst hbytes
  obtain ⟨h, hpayload⟩ := range_append h
  obtain ⟨hheader, hpts⟩ := range_append h
  have hrest : Memory.range s.inBuf 14 (14 + payload.length - 14) = .ok payload := by
    rw [Nat.add_sub_cancel_left]
    exact hpayload
  have hrun := runs_header (L := 14 + payload.length) hcfg ht hopt (by omega) (by decide) rfl hheader
  have hfield := standsTimestamp_of_range (L := 14 + payload.length) (a := 9) hpts (by omega)
  replace hrun := hrun.trans (runs_pts (f := 0b10) hcfg ht hfield rfl rfl)
  replace hrun := hrun.trans (runs_payload (o := 14) ht rfl rfl hopt rfl (by decide)
    (commitHeader_of_optional rfl rfl hopt rfl rfl rfl rfl rfl rfl rfl) hrest)
  exact parsesTo_of_runs hL hrun rfl

/-- The packet of `.FIX`, `.OPT` and `.PTSDTS`. -/
theorem parsesTo_ptsDts {Tp Td : BitVec 33} {bytes : List Byte}
    (hbytes : bytes = fixedPartBytes sid plen ++ flagClusterBytes scr pri dai cpy ooc 0b11 0 hdl ++ ptsDtsBytes Tp Td ++
      payload) (h : Memory.range s.inBuf 0 bytes.length = .ok bytes) :
    ParsesTo s 34 bytes payload
      { startCode := .val 0x000001, streamId := .val sid, packetLength := .val plen,
        flags1 := .val (0b10#2 ++ scr ++ pri ++ dai ++ cpy ++ ooc), flags2 := .val 0xC0, hdl := .val hdl,
        pts := .val Tp, dts := .val Td } := by
  have hL : bytes.length = 19 + payload.length := hbytes ▸ List.length_append
  subst hbytes
  obtain ⟨h, hpayload⟩ := range_append h
  obtain ⟨hheader, hboth⟩ := range_append h
  obtain ⟨hpts, hdts⟩ := range_append hboth
  have hrest : Memory.range s.inBuf 19 (19 + payload.length - 19) = .ok payload := by
    rw [Nat.add_sub_cancel_left]
    exact hpayload
  have hrun := runs_header (L := 19 + payload.length) hcfg ht hopt (by omega) (by decide) rfl hheader
  have hfield := standsTimestamp_of_range (L := 19 + payload.length) (a := 9) hpts (by omega)
  replace hrun := hrun.trans (runs_pts (f := 0b11) hcfg ht hfield rfl rfl)
  have hfield' := standsTimestamp_of_range (L := 19 + payload.length) (a := 14) hdts (by omega)
  replace hrun := hrun.trans (runs_dts hcfg ht hfield')
  replace hrun := hrun.trans (runs_payload (o := 19) ht rfl rfl hopt rfl (by decide)
    (commitHeader_of_optional rfl rfl hopt rfl rfl rfl rfl rfl rfl rfl) hrest)
  exact parsesTo_of_runs hL hrun rfl

end

/-- Settles O50: the runs of the two kinds of packet. -/
theorem encodedPacketsParseBack : Obligations.EncodedPacketsParseBack := by
  unfold Obligations.EncodedPacketsParseBack
  intro s sid plen scr pri dai cpy ooc hdl Tp Td payload hcfg ht hopt
  exact ⟨parsesTo_pts hcfg ht hopt rfl, parsesTo_ptsDts hcfg ht hopt rfl⟩

end Sys2Proof.Proofs.Packets
end

section
/-! How a parse goes on to its end under the invariant: the offset at which each phase stands (30_encoding.md R82, R92,
R95), and the at most 34 steps from any phase to IDLE (30_encoding.md R97; 70_reset_and_hazards.md R302). -/

namespace Sys2Proof.Proofs.Progress
open Sys2Proof.Machine Sys2Proof.Proofs.Moves Sys2Proof.Proofs.Turns Sys2Proof.Proofs.Steps Sys2Proof.Proofs.Stops
open Sys2Proof.Proofs.Invariant Sys2Proof.Proofs.Paths Sys2Proof.Proofs.Commit Sys2Proof.Proofs.InputBuffer
open Sys2Proof.Proofs.Frames

/-! ## Offsets -/

/-- The rows of the header layout are the offsets of the phases before P_EXTCHK. -/
theorem offsetRows_eq : ∀ r ∈ offsetRows, 0 < r.1 ∧ r.1 < 0x20 ∧ r.2 = fieldOffset r.1 := by decide

theorem pos_of_offsetRow {s : State} (h : s.Inv) {r : Nat × Nat} (hr : r ∈ offsetRows) (hp : s.phase.toNat = r.1) :
    s.pos = r.2 := by
  obtain ⟨hlo, hhi, hoff⟩ := offsetRows_eq r hr
  rw [← hp] at hlo hhi hoff
  obtain ⟨-, -, hpos⟩ := startParse_of_inv h hlo (by omega)
  have hext : s.phase ≠ Phase.pExtchk.code := fun h => absurd (h ▸ hhi) (by decide)
  have hpay : s.phase ≠ Phase.pPayload.code := fun h => absurd (h ▸ hhi) (by decide)
  rw [hpos, hoff, State.phasePos, if_neg (not_or.mpr ⟨hext, hpay⟩)]

theorem streamId_of_wkHasOpt {s : State} (h : s.wkHasOpt = true) :
    ∃ id, s.wk.streamId = .val id ∧ id ∉ s.cfg.streamIds.noHdr := by
  unfold State.wkHasOpt at h
  split at h
  · cases h
  · rename_i id hid
    exact ⟨id, hid, hasOptionalHeader_eq_true_iff.mp h⟩

/-- The optional rows run only for an id with an optional header (30_encoding.md R84). -/
theorem wkHasOpt_of_inv {s : State} (h : s.Inv) (hlo : 0x03 < s.phase.toNat) (hhi : s.phase.toNat < 0x21) :
    s.wkHasOpt = true := by
  obtain ⟨-, ⟨⟨-, -, -, hopt⟩, -⟩, -⟩ := startParse_of_inv h (by omega) hhi
  exact hopt hlo hhi

theorem flags_of_wkFields {s : State} :
    (s.wkFields.hasPts = true → s.wk.ptsDtsFlags = .val 0b10 ∨ s.wk.ptsDtsFlags = .val 0b11) ∧
      (s.wkFields.hasDts = true → s.wk.ptsDtsFlags = .val 0b11) := by
  have hflags : ∀ f : BitVec 2, ((timestampFields f).hasPts = true → f = 0b10 ∨ f = 0b11) ∧
      ((timestampFields f).hasDts = true → f = 0b11) := by decide
  unfold State.wkFields
  cases s.wk.ptsDtsFlags with
  | poison => exact ⟨nofun, nofun⟩
  | val f =>
    obtain ⟨hpts, hdts⟩ := hflags f
    exact ⟨fun h => (hpts h).imp (congrArg _) (congrArg _), fun h => congrArg _ (hdts h)⟩

/-- Where the payload begins (30_encoding.md R92). -/
theorem headerBits : ∀ f : BitVec 2,
    8 * headerBytes true (timestampFields f) = if f = 0b10 then 112 else if f = 0b11 then 152 else 72 := by decide

/-- A start parse in P_PAYLOAD stands behind its header. -/
theorem pos_of_pPayload {s : State} (h : s.Inv) (hs : s.cmdStart = true) (hp : s.phase = Phase.pPayload.code) :
    s.pos = 8 * headerBytes s.wkHasOpt s.wkFields := by
  obtain ⟨-, -, -, -, -, -, -, hprog⟩ := h
  have hrun := hprog (hp ▸ by decide)
  rw [if_pos hs] at hrun
  obtain ⟨-, hpos⟩ := hrun
  rw [hpos (hp ▸ by decide), State.phasePos, if_pos (.inr hp)]

/-- A continuation parse in P_PAYLOAD stands at bit 0 (42_header_parser.md R161). -/
theorem pos_of_continuation {s : State} (h : s.Inv) (hs : s.cmdStart = false) (hp : s.phase = Phase.pPayload.code) :
    s.pos = 0 := by
  obtain ⟨-, -, -, -, -, -, -, hprog⟩ := h
  have hrun := hprog (hp ▸ by decide)
  rw [hs, if_neg Bool.false_ne_true] at hrun
  rcases hrun with ⟨-, hpos⟩ | hcommit
  · exact hpos
  · exact absurd (hp.symm.trans hcommit) (by decide)

theorem payload_offset {s : State} (h : s.Inv) (hs : s.cmdStart = true) (hp : s.phase = Phase.pPayload.code) :
    ∃ id, s.wk.streamId = .val id ∧ (id ∈ s.cfg.streamIds.noHdr → s.pos = 48) ∧
      (id ∉ s.cfg.streamIds.noHdr → ∃ f, s.wk.ptsDtsFlags = .val f ∧
        s.pos = (if f = 0b10 then 112 else if f = 0b11 then 152 else 72)) := by
  have hpos := pos_of_pPayload h hs hp
  have hpast {k : Nat} (hk : k < 0x21) : s.past k := by rw [State.past, hp]; exact hk
  obtain ⟨⟨-, hidv, -⟩, hdec⟩ := decodedInv_of_start h hs (hp ▸ by decide)
  obtain ⟨id, hid⟩ := exists_val (hidv (hpast (by decide)))
  refine ⟨id, hid, fun hmem => ?_, fun hmem => ?_⟩
  · rw [hpos, wkHasOpt_of_streamId hid, hasOptionalHeader_eq_false_iff.mpr hmem]
    rfl
  · have hopt := (wkHasOpt_of_streamId hid).trans (hasOptionalHeader_eq_true_iff.mpr hmem)
    obtain ⟨hcluster, -⟩ := hdec hopt (hpast (by decide))
    obtain ⟨f, hf⟩ := exists_val (ptsDtsFlags_isVal hcluster (hpast (by decide)))
    exact ⟨f, hf, by rw [hpos, hopt, wkFields_of_flags hf, headerBits]⟩

/-- Settles O54: the position and the decoded fields that the invariant gives each phase. -/
theorem fieldsStandAtTheirOffsets : Obligations.FieldsStandAtTheirOffsets := by
  unfold Obligations.FieldsStandAtTheirOffsets
  intro s h
  obtain ⟨hptsFlags, hdtsFlags⟩ := flags_of_wkFields (s := s)
  refine ⟨byteAligned_of_pPayload h, pos_of_continuation h, fun hs => ⟨fun r => pos_of_offsetRow h,
    fun hlo hhi => ?_, fun hlo hhi => ?_, fun hlo hhi => ?_, payload_offset h hs⟩⟩
  · exact streamId_of_wkHasOpt (wkHasOpt_of_inv h hlo (Nat.lt_succ_of_le hhi))
  · obtain ⟨-, hpts, -⟩ := optionalHeader_of_inv h (by omega) (by omega)
    exact hptsFlags (hpts hlo (Nat.lt_succ_of_le hhi))
  · obtain ⟨-, -, hdts, -⟩ := optionalHeader_of_inv h (by omega) (by omega)
    exact hdtsFlags (hdts hlo (Nat.lt_succ_of_le hhi))

/-! ## Termination -/

/-- A turn of PESP is enabled where the range is written. -/
theorem step_of_written {s : State} (h : s.Inv) (ht : s.pespTurn = true) (hw : Memory.written s.inBuf 0 s.len) :
    ∃ t, step s = .next t := by
  have hans := answers_step h ht
  generalize step s = o at hans ⊢
  cases hans with
  | next t => exact ⟨t, rfl⟩
  | unwritten a ha hp =>
    obtain ⟨b, hb⟩ := hw a (Nat.zero_le a) (by simpa using ha)
    cases hb.symm.trans hp

/-- A turn of PESP leaves the range as it is. -/
theorem range_of_step {s t : State} (ht : s.pespTurn = true) (h : step s = .next t) :
    t.inBuf = s.inBuf ∧ t.len = s.len := by
  obtain ⟨i, -, hm⟩ := phaseMove_of_step ht h
  obtain ⟨-, -, hlen, -, -, -, hbuf⟩ := phaseMove_frame hm
  exact ⟨hbuf, hlen⟩

/-- A running parse ends with this step, or its PHASE code rises. -/
theorem phase_rises {s t : State} (h : s.Inv) (ht : s.pespTurn = true) (hne : s.phase ≠ 0x00)
    (hstep : step s = .next t) :
    t.phase = 0x00 ∨ s.phase.toNat < t.phase.toNat := by
  obtain ⟨-, -, hedge, -⟩ := phasesFollowThePaths s t h ht hne hstep
  rcases hedge with hidle | hskip | ⟨hnext, -⟩
  · exact .inl hidle
  · simp only [List.mem_cons, Prod.mk.injEq, List.not_mem_nil, or_false] at hskip
    omega
  · omega

/-- With `n` PHASE codes from PHASE on, a parse left to itself ends within `n` steps. -/
theorem parse_ends {n : Nat} {s : State} (h : s.Inv) (hne : s.phase ≠ 0x00) (ht : s.turns = [])
    (hw : Memory.written s.inBuf 0 s.len) (hn : 0x23 ≤ s.phase.toNat + n) :
    ∃ k t, k ≤ n ∧ core.run k s = .next t ∧ t.phase = 0x00 ∧ t.status.busy = false ∧ t.status.done = true := by
  induction n generalizing s with
  | zero =>
    obtain ⟨-, -, -, ⟨-, -, hlast, -⟩, -⟩ := h
    omega
  | succ n ih =>
    have hturn := pespTurn_of_nil ht
    obtain ⟨u, hstep⟩ := step_of_written h hturn hw
    have hrun := runs_one hstep
    rcases eq_or_ne u.phase 0x00 with hidle | hgo
    · obtain ⟨-, hbusy, hdone, -⟩ := terminationRecords s u h hturn hne hstep hidle
      exact ⟨1, u, by omega, hrun.run, hidle, hbusy, hdone⟩
    · have hrise := (phase_rises h hturn hne hstep).resolve_left hgo
      obtain ⟨hbuf, hlen⟩ := range_of_step hturn hstep
      obtain ⟨k, t, hk, ht', hend⟩ := ih (stepKeepsTheInvariant s u h hstep) hgo (by rw [step_turns hstep, ht]; rfl)
        (hbuf ▸ hlen ▸ hw) (by omega)
      exact ⟨1 + k, t, by omega, (hrun k).trans ht', hend⟩

/-- Settles O46: a turn of PESP meets no unwritten byte, and PHASE rises until it is IDLE. -/
theorem everyParseEnds : Obligations.EveryParseEnds := by
  unfold Obligations.EveryParseEnds
  refine ⟨fun s => step_of_written, fun s h hne ht hw => parse_ends h hne ht hw ?_⟩
  have hpos : s.phase.toNat ≠ 0 := fun h => hne (BitVec.eq_of_toNat_eq h)
  omega

end Sys2Proof.Proofs.Progress
end

section
/-! RESET and the writes of a range lead to the launch premise (70_reset_and_hazards.md R293, R294): what a run of
InWrites leaves in `IN`, and that a machine with no turn left is quiet. -/

namespace Sys2Proof.Proofs.Launch
open Sys2Proof.Machine Sys2Proof.Proofs.Turns Sys2Proof.Proofs.Steps Sys2Proof.Proofs.InputBuffer

/-- `IN` after the writes of `bytes` from address `a` on (30_encoding.md R105). -/
def writeBytes (m : Memory) : Nat → List Byte → Memory
  | _, [] => m
  | a, b :: bs => writeBytes (Memory.write m a b) (a + 1) bs

theorem read_writeBytes_of_lt {m : Memory} {a a' : Nat} (bs : List Byte) (h : a' < a) :
    Memory.read (writeBytes m a bs) a' = Memory.read m a' := by
  induction bs generalizing m a with
  | nil => rfl
  | cons b bs ih => rw [writeBytes, ih (by omega), Memory.read_write_other m b (by omega)]

/-- The written range reads back. -/
theorem range_writeBytes (m : Memory) (a : Nat) (bs : List Byte) :
    Memory.range (writeBytes m a bs) a bs.length = .ok bs := by
  induction bs generalizing m a with
  | nil => rfl
  | cons b bs ih =>
    have hfirst : Memory.read (writeBytes (Memory.write m a b) (a + 1) bs) a = .val b := by
      rw [read_writeBytes_of_lt bs (Nat.lt_succ_self a), Memory.read_write_same]
    simp only [List.length_cons, Memory.range, writeBytes, hfirst, ih]

theorem step_of_inWriteTurn {s : State} {a : Nat} {b : Byte} {rest : List Turn}
    (ht : s.turns = .host (encode s.cfg (.inWrite a b)) :: rest) (ha : a < s.cfg.maxLen) (hb : s.status.busy = false) :
    step s = .next { s with turns := rest, inBuf := Memory.write s.inBuf a b } :=
  (step_of_hostWord ht rfl (decode_encode_inWrite s.cfg a b)).trans (execInWrite_idle b ha hb)

/-- The writes of a range inside `IN`, one step each, while no parse runs. -/
theorem runs_inBytes {s : State} {a : Nat} {bs : List Byte} (ht : s.turns = inBytesTurns s.cfg a bs)
    (ha : a + bs.length ≤ s.cfg.maxLen) (hb : s.status.busy = false) :
    Runs bs.length s { s with turns := [], inBuf := writeBytes s.inBuf a bs } := by
  induction bs generalizing s a with
  | nil =>
    intro j
    have hs : { s with turns := [], inBuf := writeBytes s.inBuf a [] } = s := by
      rw [writeBytes, show [] = s.turns from ht.symm]
    rw [hs, List.length_nil, Nat.zero_add]
  | cons b bs ih =>
    rw [List.length_cons] at ha
    have hfirst := runs_one (step_of_inWriteTurn ht (by omega) hb)
    rw [List.length_cons, Nat.add_comm]
    exact hfirst.trans (ih rfl (by simpa [Nat.add_assoc, Nat.add_comm] using ha) hb)

theorem step_of_resetTurn {s : State} {rest : List Turn} (ht : s.turns = resetTurn :: rest) :
    step s = .next { State.resetOf s.cfg with turns := rest } := step_of_hostWord ht rfl rfl

/-- PESP in IDLE with a written range, no fault and no turn listed is ready for either command. -/
theorem clean_of_turns_nil {s : State} {len : Nat} (hf : s.faultFree) (hp : s.phase = Phase.idle.code)
    (hb : s.status.busy = false) (hlen : len ≤ s.cfg.maxLen) (hw : Memory.written s.inBuf 0 len) (ht : s.turns = []) :
    s.clean len := by
  refine ⟨hf, ⟨hp, hb⟩, ⟨hlen, hw⟩, fun start _ => quietUntilDone_of_turns_nil ?_⟩
  have hnone : s.pendingStart len = none := by rw [State.pendingStart, ht]
  rw [State.launched, hnone, if_neg nofun]
  exact ht

/-- Settles O58: RESET, the run of the writes, and the premise of the state they leave. -/
theorem resetAndWritesGiveClean : Obligations.ResetAndWritesGiveClean := by
  unfold Obligations.ResetAndWritesGiveClean
  intro s bytes hlen ht
  have hreset := runs_one (step_of_resetTurn ht)
  have hwrites := runs_inBytes (s := { State.resetOf s.cfg with turns := inBytesTurns s.cfg 0 bytes }) (a := 0)
    (bs := bytes) rfl (by simpa [State.resetOf] using hlen) rfl
  have hrange := range_writeBytes [] 0 bytes
  rw [Nat.add_comm]
  exact ⟨_, (hreset.trans hwrites).run,
    clean_of_turns_nil rfl rfl rfl hlen (Memory.written_of_range hrange) rfl, hrange⟩

end Sys2Proof.Proofs.Launch
end

section
/-! The Bit Reader's byte counts (40_bit_reader.md R124, R125): the whole bytes left at a byte boundary, and the offset of
the next unread byte there and off one. -/

namespace Sys2Proof.Proofs.ByteCounts
open Sys2Proof.Machine

/-- At a byte boundary every byte from POS on is whole. -/
theorem bytesLeft_of_aligned {s : State} (h : s.pos % 8 = 0) : bytesLeft s = s.len - s.pos / 8 := by
  have hpos : s.pos = 8 * (s.pos / 8) := (Nat.mul_div_cancel' (Nat.dvd_of_mod_eq_zero h)).symm
  calc (8 * s.len - s.pos) / 8 = 8 * (s.len - s.pos / 8) / 8 := by rw [Nat.mul_sub, ← hpos]
    _ = s.len - s.pos / 8 := Nat.mul_div_cancel_left _ (by decide)

theorem currentByte_of_aligned {s : State} (h : s.pos % 8 = 0) : currentByte s = some (s.pos / 8) := if_pos h

theorem currentByte_of_unaligned {s : State} (h : s.pos % 8 ≠ 0) : currentByte s = none := if_neg h

theorem execCurrent_of_aligned {s : State} (h : s.pos % 8 = 0) :
    execCurrent s = .next (s.answer (.count (s.pos / 8))) := by
  rw [execCurrent, currentByte_of_aligned h]

theorem execCurrent_of_unaligned {s : State} (h : s.pos % 8 ≠ 0) : execCurrent s = .fault .notByteAligned := by
  rw [execCurrent, currentByte_of_unaligned h]

/-- Settles O22: BytesLeft answers its count in every state; Current by the alignment of POS. -/
theorem bytesLeftAndCurrent : Obligations.BytesLeftAndCurrent := by
  unfold Obligations.BytesLeftAndCurrent
  intro s
  exact ⟨rfl, bytesLeft_of_aligned, execCurrent_of_aligned, execCurrent_of_unaligned⟩

end Sys2Proof.Proofs.ByteCounts
end

section
/-! The stream identity classifier (41_classifier.md R140 to R146): each predicate by its range or its list of ids, and
what the CLASSIFY port and the four predicate operations answer. -/

namespace Sys2Proof.Proofs.Classifier
open Sys2Proof.Machine Sys2Proof.Proofs.Commit Sys2Proof.Proofs.Words

/-! ## The predicates -/

/-- The ids with the audio row's three high bits. -/
theorem isAudioStream_eq_range :
    ∀ id : Byte, isAudioStream id = decide (0xC0 ≤ id.toNat ∧ id.toNat ≤ 0xDF) := by decide

/-- The ids with the video row's four high bits. -/
theorem isVideoStream_eq_range :
    ∀ id : Byte, isVideoStream id = decide (0xE0 ≤ id.toNat ∧ id.toNat ≤ 0xEF) := by decide

theorem isPaddingStream_eq (t : StreamIdTable) (id : Byte) :
    isPaddingStream t id = decide (id = t.paddingStream) := rfl

theorem hasOptionalHeader_eq (t : StreamIdTable) (id : Byte) :
    hasOptionalHeader t id = decide (id ∉ t.noHdr) := by
  rw [Bool.eq_iff_iff, hasOptionalHeader_eq_true_iff, decide_eq_true_iff]

theorem notMem_noHdr_iff (t : StreamIdTable) (id : Byte) :
    id ∉ t.noHdr ↔ id ≠ t.programStreamMap ∧ id ≠ t.paddingStream ∧ id ≠ t.privateStream2 ∧ id ≠ t.ecmStream ∧
      id ≠ t.emmStream ∧ id ≠ t.programStreamDirectory ∧ id ≠ t.dsmccStream ∧ id ≠ t.ituTH2221E := by
  simp only [StreamIdTable.noHdr, List.mem_cons, List.not_mem_nil, or_false, not_or, ne_eq]

/-- The map's first match, with the audio and video rows by their ranges (30_encoding.md R94). -/
theorem streamClass_eq_range (t : StreamIdTable) (id : Byte) :
    streamClass t id =
      if id = t.programStreamMap then .psm else if id = t.paddingStream then .padding
      else if id = t.privateStream2 then .priv2 else if id = t.ecmStream then .ecm
      else if id = t.emmStream then .emm else if id = t.dsmccStream then .dsmcc
      else if id = t.ituTH2221E then .h2221e else if id = t.programStreamDirectory then .psd
      else if 0xC0 ≤ id.toNat ∧ id.toNat ≤ 0xDF then .audio
      else if 0xE0 ≤ id.toNat ∧ id.toNat ≤ 0xEF then .video else .other := by
  simp only [streamClass_eq, isAudioStream_eq_range, isVideoStream_eq_range, decide_eq_true_eq]

/-- No id is both: the audio range ends before the video range begins (41_classifier.md R146). -/
theorem not_audio_and_video (id : Byte) : ¬(isAudioStream id = true ∧ isVideoStream id = true) := by
  rw [isAudioStream_eq_range, isVideoStream_eq_range, decide_eq_true_iff, decide_eq_true_iff]
  rintro ⟨⟨-, haudio⟩, hvideo, -⟩
  omega

/-! ## The operations -/

/-- Settles O13: the port answers the predicates and the map's first match. -/
theorem classifyPort : Obligations.ClassifyPort := by
  unfold Obligations.ClassifyPort
  intro s id
  rw [exec, execClassify, isAudioStream_eq_range, isVideoStream_eq_range, isPaddingStream_eq, hasOptionalHeader_eq,
    streamClass_eq_range]
  simp only [notMem_noHdr_iff, State.answer]

/-- Settles O14: each predicate operation answers its predicate. -/
theorem predicatesByRange : Obligations.PredicatesByRange := by
  unfold Obligations.PredicatesByRange
  refine ⟨fun s id => ?_, not_audio_and_video⟩
  rw [← isAudioStream_eq_range, ← isVideoStream_eq_range]
  refine ⟨rfl, rfl, rfl, ?_⟩
  rw [exec, execHasOptionalHeader, hasOptionalHeader_eq]
  rfl

end Sys2Proof.Proofs.Classifier
end

section
/-! Commands and the phases that read one field of the header (42_header_parser.md R159 to R192): the three answers of a
command, and for a phase the next state where its field is readable and where it does not fit. -/

namespace Sys2Proof.Proofs.HeaderPhases
open Sys2Proof.Machine Sys2Proof.Proofs.Reader Sys2Proof.Proofs.Rows Sys2Proof.Proofs.Fields Sys2Proof.Proofs.Commit

/-! ## Commands -/

theorem command_acceptance (s : State) (start : Bool) (len : Nat) :
    (s.status.busy = true →
      command start len s = .next { s with faultReg := { s.faultReg with cmdWhileBusy := true } }) ∧
    (s.status.busy = false → s.cfg.maxLen < len →
      command start len s = .next { s with faultReg := { s.faultReg with lenOverMax := true } }) ∧
    (s.status.busy = false → len ≤ s.cfg.maxLen → command start len s = .next (accept start len s)) := by
  rw [command_eq]
  refine ⟨fun hb => by rw [if_pos hb], fun hb hlen => ?_, fun hb hlen => ?_⟩
  · rw [hb, if_neg Bool.false_ne_true, if_pos hlen]
  · rw [hb, if_neg Bool.false_ne_true, if_neg (not_lt.mpr hlen)]

/-- Settles O6: either command is `command` with its `start`. -/
theorem commandAcceptance : Obligations.CommandAcceptance := by
  unfold Obligations.CommandAcceptance
  rintro s len start i (⟨rfl, rfl⟩ | ⟨rfl, rfl⟩)
  · exact command_acceptance s true len
  · exact command_acceptance s false len

/-! ## Fields recorded without a check -/

theorem recordsField_of_fieldPhase {i : Instr} {n : Nat} {write : BitVec n → Wk → Wk} {s : State} (p : Phase)
    (h : exec i s = fieldPhase n write p s) (hn : 1 ≤ n := by decide) : recordsField i n write p.code s :=
  ⟨truncates_of_readField hn h, fun hr => h.trans (readField_of_readable hr _)⟩

/-- Settles O25: each of these phases is `fieldPhase` with its width, its field and its successor. -/
theorem headerFieldsRecorded : Obligations.HeaderFieldsRecorded := by
  unfold Obligations.HeaderFieldsRecorded
  intro s
  exact ⟨recordsField_of_fieldPhase .pLen rfl, recordsField_of_fieldPhase .pPri rfl,
    recordsField_of_fieldPhase .pDai rfl, recordsField_of_fieldPhase .pCpy rfl,
    recordsField_of_fieldPhase .pOoc rfl, recordsField_of_fieldPhase .pPdf rfl,
    recordsField_of_fieldPhase .pEsrf rfl, recordsField_of_fieldPhase .pDsmf rfl,
    recordsField_of_fieldPhase .pAcif rfl, recordsField_of_fieldPhase .pCrcf rfl,
    recordsField_of_fieldPhase .pExtf rfl, recordsField_of_fieldPhase .pHdl rfl⟩

/-- Settles O29: each of these phases is `fieldPhase` with its width, its field and its successor. -/
theorem timestampSegmentsRecorded : Obligations.TimestampSegmentsRecorded := by
  unfold Obligations.TimestampSegmentsRecorded
  intro s
  exact ⟨recordsField_of_fieldPhase .pPtsM0 rfl, recordsField_of_fieldPhase .pPtsM1 rfl,
    recordsField_of_fieldPhase .pPtsM2 rfl, recordsField_of_fieldPhase .pDtsM0 rfl,
    recordsField_of_fieldPhase .pDtsM1 rfl, recordsField_of_fieldPhase .pDtsM2 rfl⟩

/-! ## Fields checked against a pattern -/

/-- A check that fails ends the parse MALFORMED, and one that holds goes on. -/
theorem check_eq_next {v x : Nat} {c : Cause} {u t : State} :
    (if v ≠ x then terminate .malformed c u else .next t) =
      (.next (if v = x then t else failed .malformed c u) : Out) := by
  rw [ite_not, terminate_malformed]
  exact (apply_ite Host.Outcome.next _ _ _).symm

/-- Settles O24: both phases check the field they have just recorded. -/
theorem fixedPatternsChecked : Obligations.FixedPatternsChecked := by
  unfold Obligations.FixedPatternsChecked
  intro s
  exact ⟨truncates_of_readField (by decide) rfl, fun hr => (readField_of_readable hr _).trans check_eq_next,
    truncates_of_readField (by decide) rfl, fun hr => (readField_of_readable hr _).trans check_eq_next⟩

/-! ## Fields that choose the path -/

theorem execPHdl_of_readable {s : State} {flags : BitVec 2} (hr : s.readable 8) (hf : s.wk.ptsDtsFlags = .val flags) :
    exec .pHdl s = .next (((s.advance 8).setWk
      { s.wk with hdl := .val (BitVec.ofNat 8 (streamValue s.inBuf s.pos 8)) }).goto
        (if (timestampFields flags).hasPts then .pPtsPfx else .pExtchk)) := by
  rw [exec, execPHdl, readField_of_readable hr]
  simp only [State.setWk_wk, State.advance_wk, hf, needs_val]

/-- The path behind P_LEN, by the list of ids without an optional header (42_header_parser.md R164). -/
theorem pLen_path_code (t : StreamIdTable) (id : Byte) :
    (if hasOptionalHeader t id then Phase.pFixed else Phase.pPayload).code = if id ∈ t.noHdr then 0x21 else 0x04 := by
  by_cases hid : id ∈ t.noHdr
  · rw [if_pos hid, hasOptionalHeader_eq_false_iff.mpr hid]
    rfl
  · rw [if_neg hid, hasOptionalHeader_eq_true_iff.mpr hid]
    rfl

/-- The path behind P_HDL, by the flags (42_header_parser.md R178). -/
theorem pHdl_path_code : ∀ flags : BitVec 2,
    (if (timestampFields flags).hasPts then Phase.pPtsPfx else Phase.pExtchk).code =
      if flags = 0b10 ∨ flags = 0b11 then 0x12 else 0x20 := by decide

/-- Settles O26: P_LEN and P_HDL record their field, and go by the stream id and the flags. -/
theorem pathChoices : Obligations.PathChoices := by
  unfold Obligations.PathChoices
  intro s id flags
  refine ⟨truncates_of_readField (by decide) rfl, fun hr hid => ?_, truncates_of_readField (by decide) rfl,
    fun hr hf => ?_⟩
  · rw [execPLen_of_readable hr hid, ← pLen_path_code]
    rfl
  · rw [execPHdl_of_readable hr hf, ← pHdl_path_code]
    rfl

/-! ## Markers -/

/-- A readable marker: a 1 goes on as `k` does, a 0 ends the parse MALFORMED just past the bit. -/
theorem markerPhase_of_readable {c : Cause} {k : State → Out} {s t : State} (hr : s.readable 1)
    (hk : k (s.advance 1) = .next t) :
    markerPhase c k s = .next (if streamBit s.inBuf s.pos then t else failed .malformed c (s.advance 1)) := by
  rw [markerPhase, readField_of_readable hr, streamValue_one]
  cases streamBit s.inBuf s.pos with
  | true => exact hk
  | false => rfl

theorem checksMarker_of_markerPhase {i : Instr} {c : Cause} {s : State} (p : Phase)
    (h : exec i s = markerPhase c (fun u => .next (u.goto p)) s) : checksMarker i c p.code s :=
  ⟨truncates_of_readField (by decide) h, fun hr => h.trans (markerPhase_of_readable hr rfl)⟩

/-- Settles O30: each of these phases is `markerPhase` with its cause and its successor. -/
theorem markersChecked : Obligations.MarkersChecked := by
  unfold Obligations.MarkersChecked
  intro s
  exact ⟨checksMarker_of_markerPhase .pPtsMid rfl, checksMarker_of_markerPhase .pPtsLo rfl,
    checksMarker_of_markerPhase .pDtsMid rfl, checksMarker_of_markerPhase .pDtsLo rfl⟩

/-- The path behind the PTS, by the flags (42_header_parser.md R185). -/
theorem pPtsM2_path_code : ∀ flags : BitVec 2,
    (if (timestampFields flags).hasDts then Phase.pDtsPfx else Phase.pExtchk).code =
      if flags = 0b11 then 0x19 else 0x20 := by decide

/-- Settles O31: the third marker is checked like the others, and the segments side by side are the timestamp. -/
theorem timestampsAssembled : Obligations.TimestampsAssembled := by
  unfold Obligations.TimestampsAssembled
  intro s hi mid lo flags
  refine ⟨truncates_of_readField (by decide) rfl, fun hr hhi hmid hlo hf => markerPhase_of_readable hr ?_,
    truncates_of_readField (by decide) rfl, fun hr hhi hmid hlo => markerPhase_of_readable hr ?_⟩
  · simp only [State.advance_wk, hhi, hmid, hlo, hf, needs_val, assembleTimestamp_eq_append, ← pPtsM2_path_code]
    rfl
  · simp only [State.advance_wk, hhi, hmid, hlo, needs_val, assembleTimestamp_eq_append]
    rfl

end Sys2Proof.Proofs.HeaderPhases
end

section
/-! The forbidden value 0b01 of PTS_DTS_flags (42_header_parser.md R171): what P_PDF does with it under each policy, and
that under the invariant a start parse that holds it moves on with it or ends with another result than OK. -/

namespace Sys2Proof.Proofs.ForbiddenFlags
open Sys2Proof.Machine Sys2Proof.Proofs.Moves Sys2Proof.Proofs.Turns Sys2Proof.Proofs.Frames Sys2Proof.Proofs.Decoding
open Sys2Proof.Proofs.Invariant Sys2Proof.Proofs.Progress Sys2Proof.Proofs.Rows

/-- P_PDF of a readable field: the flags are recorded, then the policy decides. -/
theorem execPPdf_of_readable {s u : State} (hr : s.readable 2)
    (hu : u = (s.advance 2).setWk
      { s.wk with ptsDtsFlags := .val (BitVec.ofNat 2 (streamValue s.inBuf s.pos 2)) }) :
    exec .pPdf s = .next
      (if streamValue s.inBuf s.pos 2 = 0b01 ∧ s.cfg.forbiddenPolicy = .failFast
        then failed .malformed .forbiddenPtsDts u else u.goto .pEscrf) := by
  have hvalue : BitVec.ofNat 2 (streamValue s.inBuf s.pos 2) = 0b01 ↔ streamValue s.inBuf s.pos 2 = 0b01 := by
    rw [← BitVec.toNat_inj, BitVec.toNat_ofNat, Nat.mod_eq_of_lt (streamValue_lt s.inBuf s.pos 2)]
    rfl
  subst hu
  rw [exec, execPPdf, readField_of_readable hr, flagsRead_eq]
  simp only [hvalue, State.advance_cfg, State.advance_wk]

/-- A start parse with an optional header holds the forbidden flags. -/
structure Forbidden (s : State) : Prop where
  start : s.cmdStart = true
  hasOpt : s.wkHasOpt = true
  flags : s.wk.ptsDtsFlags = .val 0b01

/-- Past P_PDF a header phase that goes on writes neither the stream id nor the flags. -/
theorem Forbidden.decoded {s : State} {i : Instr} {n : Nat} {w : Wk} {p : Phase} (h : Forbidden s)
    (hd : Decodes s i n w p) (hpast : 0x0A < (phaseCode i).toNat) : Forbidden (decoded s n w p) := by
  have hsid : i ≠ .pSid := by rintro rfl; exact absurd hpast (by decide)
  have hpdf : i ≠ .pPdf := by rintro rfl; exact absurd hpast (by decide)
  obtain ⟨-, -, -, -, -, -, -, -, -, hflags, -⟩ := decodes_wkFrame hd
  exact ⟨h.start, (decodes_wkHasOpt hd hsid).trans h.hasOpt, (hflags hpdf).trans h.flags⟩

/-- What a move of a phase past P_PDF makes of a parse that holds the forbidden flags: a failure, or a parse that still
runs and holds them. -/
theorem Forbidden.phaseMove {s t : State} {i : Instr} (h : Forbidden s) (hs : Selected i s) (hm : PhaseMove i s t)
    (hpast : 0x0A < s.phase.toNat) (hdone : s.status.done = false) :
    (t.status.done = true ∧ t.status.result ≠ .ok ∧ t.status.valid = false) ∨
      (t.status.done = false ∧ t.phase ≠ 0x00 ∧ Forbidden t) := by
  obtain ⟨hcode, -⟩ := hs
  rw [← hcode] at hpast
  cases hm with
  | idles hi _ => subst hi; exact absurd hpast (by decide)
  | decodes n w p hd _ ht =>
    subst ht
    obtain ⟨hidle, -⟩ := decodes_phases hd
    exact .inr ⟨hdone, hidle, h.decoded hd hpast⟩
  | fails n w r c _ _ _ _ hr ht => subst ht; exact .inl ⟨rfl, hr, rfl⟩
  | pads _ _ _ ht | forwards _ _ ht =>
    subst ht
    exact .inr ⟨hdone, show Phase.pCommit.code ≠ 0x00 by decide, h.start, h.hasOpt, h.flags⟩
  | commits _ _ _ _ hf _ => exact absurd h.flags (hf h.hasOpt)
  | continues _ hstart _ => exact absurd (hstart.symm.trans h.start) Bool.false_ne_true

/-- Settles O27: P_PDF by the policy, each move of a later phase, and PHASE rises while the parse runs. -/
theorem forbiddenFlags : Obligations.ForbiddenFlags := by
  unfold Obligations.ForbiddenFlags
  refine ⟨fun s => ⟨truncates_of_readField (by decide) rfl, fun hr => execPPdf_of_readable hr rfl⟩, ?_⟩
  intro s t h hturn hstart hpast hopt hflags hstep
  have hne : s.phase ≠ Phase.idle.code := fun hp => absurd (hp ▸ hpast) (by decide)
  have hdone : s.status.done = false := by rw [(running_of_inv h hne).status]; rfl
  obtain ⟨i, hs, hm⟩ := phaseMove_of_step hturn hstep
  have hheld : Forbidden (dequeued s) := ⟨hstart, hopt, hflags⟩
  rcases hheld.phaseMove hs hm hpast hdone with hend | ⟨hdone', hgo, hheld'⟩
  · exact .inl hend
  · have hrise := (phase_rises h hturn hne hstep).resolve_left hgo
    exact .inr ⟨hdone', hrise, hheld'.start, hheld'.hasOpt, hheld'.flags⟩

end Sys2Proof.Proofs.ForbiddenFlags
end

section
/-! Continuation parses (42_header_parser.md R161; 43_payload_result.md R225; 60_exceptions.md R254): P_PAYLOAD forwards
the whole range, or stops at its first unwritten byte, and P_COMMIT ends the parse OK. -/

namespace Sys2Proof.Proofs.Continuation
open Sys2Proof.Machine Sys2Proof.Proofs.Turns Sys2Proof.Proofs.Steps Sys2Proof.Proofs.Commit Sys2Proof.Proofs.ByteCounts

/-! ## The forwarding branch of P_PAYLOAD -/

/-- The state behind P_PAYLOAD once it has forwarded `bytes`, the range from byte `o` on. -/
def sent (u : State) (o : Nat) (bytes : List Byte) : State :=
  { u.emit bytes with
    status := { u.status with fed := true },
    feedOffset := .val o, feedLen := .val (u.len - o), consumed := .val (u.len - o),
    pos := 8 * u.len }.goto .pCommit

theorem currentByte_of_eq {u : State} {o : Nat} (hpos : u.pos = 8 * o) : currentByte u = some o := by
  rw [currentByte_of_aligned (by omega), hpos, Nat.mul_div_cancel_left o (by decide)]

theorem execPPayloadFwd_of_range {u : State} {o : Nat} {bytes : List Byte} (hpos : u.pos = 8 * o)
    (hr : Memory.range u.inBuf o (u.len - o) = .ok bytes) : exec .pPayloadFwd u = .next (sent u o bytes) := by
  simp only [exec, execPPayloadFwd, currentByte_of_eq hpos, hr]
  rfl

theorem execPPayloadFwd_of_unwritten {u : State} {o a : Nat} (hpos : u.pos = 8 * o)
    (hr : Memory.range u.inBuf o (u.len - o) = .error a) : exec .pPayloadFwd u = .fault (.inUnwritten a) := by
  simp only [exec, execPPayloadFwd, currentByte_of_eq hpos, hr]

/-! ## The two steps -/

/-- The state in which the continuation parse of `IN[0..len-1] = bytes` ends. -/
def continuationEnd (s : State) (len : Nat) (bytes : List Byte) : State :=
  { s with
    phase := 0x00, pos := 8 * len, cmdStart := false, len := len, wk := Wk.poison, hdr := Hdr.poison
    status := { Status.zero with done := true, result := .ok, valid := s.cfg.contValid, fed := true }
    endPos := 8 * len, consumed := .val len, feedOffset := .val 0, feedLen := .val len
    sinkLog := s.sinkLog ++ [bytes] }

theorem step_continuation_payload {s : State} {len : Nat} (ht : s.turns = []) :
    step (accept false len s) = exec .pPayloadFwd (accept false len s) := by
  have hnil : (accept false len s).turns = [] := ht
  have hstep := step_of_continuation (pespTurn_of_nil hnil) rfl rfl
  rwa [dequeued_of_nil hnil] at hstep

theorem step_pCommit {u : State} (ht : u.turns = []) (hp : u.phase = Phase.pCommit.code) :
    step u = exec .pCommit u := by
  have hstep := step_of_phase (pespTurn_of_nil ht) (hp ▸ by decide)
  rwa [dequeued_of_nil ht, hp] at hstep

theorem runs_continuation {s : State} {len : Nat} {bytes : List Byte} (ht : s.turns = [])
    (hr : Memory.range s.inBuf 0 len = .ok bytes) :
    Runs 2 (accept false len s) (continuationEnd s len bytes) := by
  have hpayload := (step_continuation_payload ht).trans (execPPayloadFwd_of_range (o := 0) rfl hr)
  have hcommit := step_pCommit (u := sent (accept false len s) 0 bytes) ht rfl
  exact (runs_one hpayload).trans (runs_one (hcommit.trans (execPCommit_continuation rfl)))

/-- Settles O51: the run of a continuation parse over its written range. -/
theorem continuationEndsOk : Obligations.ContinuationEndsOk := by
  unfold Obligations.ContinuationEndsOk
  intro s len ht hw
  obtain ⟨bytes, hr⟩ := Memory.range_of_written hw
  exact ⟨bytes, hr, (runs_continuation ht hr).run⟩

end Sys2Proof.Proofs.Continuation
end

section
/-! The reference function `Parse` (42_header_parser.md R196) and the run of the phases agree: a relation between a run
and a part of the reference function, one rule per kind of phase, and the parts of `Parse` put together. -/

namespace Sys2Proof.Proofs.Reference
open Sys2Proof.Machine Sys2Proof.Proofs.Turns Sys2Proof.Proofs.Steps Sys2Proof.Proofs.Fields Sys2Proof.Proofs.Stops
open Sys2Proof.Proofs.Commit Sys2Proof.Proofs.Invariant Sys2Proof.Proofs.PhaseRuns Sys2Proof.Proofs.Continuation
open Sys2Proof.Proofs.HeaderPhases Sys2Proof.Proofs.ByteCounts

/-! ## Runs that compute a result -/

/-- From `u`, at most `k` steps lead to IDLE with the observation of `r` and its event sent beyond the log of `s`, or to
the model fault of the unwritten byte that `r` names. -/
def Computes (s : State) (k : Nat) (u : State) : Except Nat Observation → Prop
  | .ok o => ∃ n t, n ≤ k ∧ core.run n u = .next t ∧ t.phase = 0x00 ∧ t.observation o.event = o ∧
      t.sinkLog = s.sinkLog ++ o.event.toList
  | .error a => ∃ n, n ≤ k ∧ core.run n u = .fault (.inUnwritten a)

section
variable {s u v : State} {k l n : Nat} {r : Except Nat Observation}

theorem Computes.of_runs (hrun : Runs n u v) (h : Computes s k v r) : Computes s (n + k) u r := by
  cases r with
  | ok o =>
    obtain ⟨m, t, hm, ht, hend⟩ := h
    exact ⟨n + m, t, by omega, (hrun m).trans ht, hend⟩
  | error a =>
    obtain ⟨m, hm, ht⟩ := h
    exact ⟨n + m, by omega, (hrun m).trans ht⟩

theorem Computes.mono (h : Computes s k u r) (hk : k ≤ l) : Computes s l u r := by
  cases r with
  | ok o =>
    obtain ⟨m, t, hm, hend⟩ := h
    exact ⟨m, t, hm.trans hk, hend⟩
  | error a =>
    obtain ⟨m, hm, hend⟩ := h
    exact ⟨m, hm.trans hk, hend⟩

theorem Computes.ended {o : Observation} (hp : u.phase = 0x00) (ho : u.observation o.event = o)
    (hlog : u.sinkLog = s.sinkLog ++ o.event.toList) : Computes s 0 u (.ok o) :=
  ⟨0, u, le_rfl, rfl, hp, ho, hlog⟩

theorem Computes.stopped {a : Nat} (h : step u = .fault (.inUnwritten a)) : Computes s 1 u (.error a) :=
  ⟨1, le_rfl, by simp only [Host.Core.run, show core.step u = _ from h]⟩

end

/-- From `u`, at most `k` steps agree with the part `e` of the reference function: they fail as `e` fails, stop at the
byte it stops at, or reach a state that its value satisfies `Q` with. -/
inductive Agrees (s : State) {α : Type} (Q : α → State → Prop) : Nat → State → Except RefStop α → Prop
  | reached {k : Nat} {u : State} {x : α} (h : Q x u) : Agrees s Q k u (.ok x)
  | failed {k : Nat} {u : State} {r : Result} {c : Cause} {p : Phase} {q : Nat}
      (h : Computes s 0 u (.ok (refFailure r c p q))) : Agrees s Q k u (.error (.failed r c p q))
  | stopped {k : Nat} {u : State} {a : Nat} (h : step u = .fault (.inUnwritten a)) :
      Agrees s Q (k + 1) u (.error (.unwritten a))
  | runs {k : Nat} {u v : State} {e : Except RefStop α} (hrun : Runs 1 u v) (h : Agrees s Q k v e) :
      Agrees s Q (k + 1) u e

section
variable {s u : State} {k l : Nat} {α β : Type} {Q : α → State → Prop} {R : β → State → Prop} {e : Except RefStop α}

theorem Agrees.mono (h : Agrees s Q k u e) (hk : k ≤ l) : Agrees s Q l u e := by
  induction h generalizing l with
  | reached h => exact .reached h
  | failed h => exact .failed h
  | stopped h =>
    obtain ⟨l, rfl⟩ := Nat.exists_eq_add_of_le' hk
    exact .stopped h
  | runs hrun _ ih =>
    obtain ⟨l, rfl⟩ := Nat.exists_eq_add_of_le' hk
    exact .runs hrun (ih (Nat.le_add_left _ _))

/-- A part of the reference function and the part that follows it. -/
theorem Agrees.bind {f : α → Except RefStop β} (h : Agrees s Q k u e)
    (hf : ∀ x v, Q x v → Agrees s R l v (f x)) : Agrees s R (k + l) u (e >>= f) := by
  induction h with
  | reached h => exact (hf _ _ h).mono (Nat.le_add_left _ _)
  | failed h => exact .failed h
  | stopped h => exact Nat.add_right_comm _ 1 l ▸ .stopped h
  | runs hrun _ ih => exact Nat.add_right_comm _ 1 l ▸ .runs hrun ih

/-- A run that agrees with `e` computes the result `r` that is drawn from `e`. -/
theorem Agrees.computes {r : Except Nat Observation} (h : Agrees s Q k u e)
    (hok : ∀ x v, e = .ok x → Q x v → Computes s l v r)
    (hfail : ∀ res c p q, e = .error (.failed res c p q) → r = .ok (refFailure res c p q))
    (hstop : ∀ a, e = .error (.unwritten a) → r = .error a) : Computes s (k + l) u r := by
  induction h with
  | reached h => exact (hok _ _ rfl h).mono (Nat.le_add_left _ _)
  | failed h => rw [hfail _ _ _ _ rfl]; exact h.mono (Nat.zero_le _)
  | stopped h => rw [hstop _ rfl]; exact (Computes.stopped h).mono (by omega)
  | runs hrun _ ih => exact (Computes.of_runs hrun (ih hok hfail hstop)).mono (by omega)

end

/-! ## Phases that read a field -/

/-- Where the loop of `ReadBits` answers, its value stands in the stream. -/
theorem stands_of_bits {m : Memory} {L i n v : Nat} (hfits : i + n ≤ 8 * L) (h : Memory.bits m n i 0 = .ok v) :
    Stands m L i (BitVec.ofNat n v) ∧ (BitVec.ofNat n v).toNat = v := by
  have hv : v = streamValue m i n := by simpa using Memory.bits_ok h
  have hnat : (BitVec.ofNat n v).toNat = v := by
    rw [BitVec.toNat_ofNat, Nat.mod_eq_of_lt (hv ▸ streamValue_lt m i n)]
  exact ⟨⟨hfits, Memory.written_of_bits h, hv.symm.trans hnat.symm⟩, hnat⟩

theorem readField_of_unwritten {s : State} {n a : Nat} (h1 : 1 ≤ n) (h2 : n ≤ s.cfg.readWidth)
    (hfits : s.pos + n ≤ 8 * s.len) (h : Memory.bits s.inBuf n s.pos 0 = .error a) (k : Nat → State → Out) :
    readField n s k = .fault (.inUnwritten a) := by
  rw [readField, readBits, if_neg (by omega), if_pos ((available_iff h1).mpr hfits), h]

/-- A check of a phase, as the reference function writes it. -/
theorem check_eq_next_beq {v x : Nat} {c : Cause} {u t : State} :
    (if v ≠ x then terminate .malformed c u else .next t) =
      (.next (if v == x then t else failed .malformed c u) : Out) := by
  rw [check_eq_next]
  simp only [beq_iff_eq]

section
variable {s : State} {L q n k : Nat} {p : Phase} {w : Wk} {α : Type} {Q : α → State → Prop}
  (hcfg : s.cfg.wf = true) (ht : s.turns = [])

/-- A failure of a header phase is the reference function's. -/
theorem computes_failed (r : Result) (c : Cause) :
    Computes s 0 (failed r c (inPhase s L p q w)) (.ok (refFailure r c p q)) :=
  .ended rfl rfl (List.append_nil _).symm

include hcfg ht

/-- A phase that reads a field agrees with `refRead`: the field is short, or meets an unwritten byte, or is found. -/
theorem agrees_read {cont : Nat → State → Out} {f : Nat → Except RefStop α} (p : Phase)
    (hi : ∀ u, exec (phaseInstr p.code) u = readField n u cont)
    (hf : ∀ x : BitVec n, ∃ t, cont x.toNat (inPhase s L p (q + n) w) = .next t ∧ Agrees s Q k t (f x.toNat))
    (hp : p.code ≠ Phase.pPayload.code := by decide) (hn : 1 ≤ n ∧ n ≤ 24 := by decide) :
    Agrees s Q (k + 1) (inPhase s L p q w) (refRead s.inBuf L p n q >>= f) := by
  have hstep := (step_inPhase (s := s) (L := L) (q := q) (w := w) ht hp).trans (hi _)
  obtain ⟨h1, h24⟩ := hn
  have hwidth : n ≤ s.cfg.readWidth := readWidth_of_wf hcfg h24
  rw [refRead]
  by_cases hfits : q + n ≤ 8 * L
  · rw [if_pos (by omega)]
    cases hbits : Memory.bits s.inBuf n q 0 with
    | ok v =>
      obtain ⟨hx, hnat⟩ := stands_of_bits hfits hbits
      obtain ⟨t, hcont, hagrees⟩ := hf (BitVec.ofNat n v)
      rw [hnat] at hagrees
      exact .runs (runs_reads hcfg ht p hx hi hcont hp ⟨h1, h24⟩) hagrees
    | error a =>
      exact .stopped (hstep.trans (readField_of_unwritten (s := inPhase s L p q w) h1 hwidth hfits hbits cont))
  · have hshort : 8 * L < q + n := not_le.mp hfits
    rw [if_neg (by omega)]
    exact .runs (runs_one (hstep.trans (readField_short (s := inPhase s L p q w) h1 hwidth hshort cont)))
      (.failed (computes_failed .truncated .shortField))

/-- A phase that records its field. -/
theorem agrees_records {f : Nat → Except RefStop α} (p p' : Phase) (write : BitVec n → Wk → Wk)
    (hi : ∀ u, exec (phaseInstr p.code) u = fieldPhase n write p' u)
    (hf : ∀ x : BitVec n, Agrees s Q k (inPhase s L p' (q + n) (write x w)) (f x.toNat))
    (hp : p.code ≠ Phase.pPayload.code := by decide) (hn : 1 ≤ n ∧ n ≤ 24 := by decide) :
    Agrees s Q (k + 1) (inPhase s L p q w) (refRead s.inBuf L p n q >>= f) := by
  refine agrees_read hcfg ht p hi (fun x => ⟨_, ?_, hf x⟩) hp hn
  rw [BitVec.ofNat_toNat, BitVec.setWidth_eq]
  rfl

/-- A phase that checks its field. -/
theorem agrees_checks {cont : Nat → State → Out} {f : Nat → Except RefStop α} (p : Phase) (c : Cause) {ok : Nat → Bool}
    (w' : BitVec n → Wk) (t : BitVec n → State)
    (hi : ∀ u, exec (phaseInstr p.code) u = readField n u cont)
    (hcont : ∀ x : BitVec n, cont x.toNat (inPhase s L p (q + n) w) =
      .next (if ok x.toNat then t x else failed .malformed c (inPhase s L p (q + n) (w' x))))
    (hf : ∀ x : BitVec n, Agrees s Q k (t x) (f x.toNat))
    (hp : p.code ≠ Phase.pPayload.code := by decide) (hn : 1 ≤ n ∧ n ≤ 24 := by decide) :
    Agrees s Q (k + 1) (inPhase s L p q w)
      (refRead s.inBuf L p n q >>= fun v => refCheck (ok v) c p (q + n) >>= fun _ => f v) := by
  refine agrees_read hcfg ht p hi (fun x => ⟨_, hcont x, ?_⟩) hp hn
  cases hok : ok x.toNat with
  | true => exact hf x
  | false => exact .failed (computes_failed .malformed c)

/-- A phase that records its field and checks it against a pattern. -/
theorem agrees_pattern {f : Nat → Except RefStop α} {pattern : Nat} (p p' : Phase) (c : Cause)
    (write : BitVec n → Wk → Wk)
    (hi : ∀ u, exec (phaseInstr p.code) u = readField n u (fun v u =>
      if v ≠ pattern then terminate .malformed c (u.setWk (write (BitVec.ofNat n v) u.wk))
      else .next ((u.setWk (write (BitVec.ofNat n v) u.wk)).goto p')))
    (hf : ∀ x : BitVec n, Agrees s Q k (inPhase s L p' (q + n) (write x w)) (f x.toNat))
    (hp : p.code ≠ Phase.pPayload.code := by decide) (hn : 1 ≤ n ∧ n ≤ 24 := by decide) :
    Agrees s Q (k + 1) (inPhase s L p q w)
      (refRead s.inBuf L p n q >>= fun v => refCheck (v == pattern) c p (q + n) >>= fun _ => f v) := by
  refine agrees_checks hcfg ht p c (fun x => write x w) _ hi (fun x => ?_) hf hp hn
  rw [BitVec.ofNat_toNat, BitVec.setWidth_eq]
  exact check_eq_next_beq

/-- A phase that checks a marker and goes on as `cont` does. -/
theorem agrees_marker {cont : State → Out} {f : Nat → Except RefStop α} (p : Phase) (c : Cause) (t : State)
    (hi : ∀ u, exec (phaseInstr p.code) u = markerPhase c cont u)
    (hcont : cont (inPhase s L p (q + 1) w) = .next t) (hf : ∀ v, Agrees s Q k t (f v))
    (hp : p.code ≠ Phase.pPayload.code := by decide) :
    Agrees s Q (k + 1) (inPhase s L p q w)
      (refRead s.inBuf L p 1 q >>= fun v => refCheck (v == 1) c p (q + 1) >>= fun _ => f v) := by
  refine agrees_checks hcfg ht p c (fun _ => w) (fun _ => t) hi (fun x => ?_) (fun x => hf _) hp
  rw [hcont, check_eq_next_beq]

/-- A phase that checks a marker and only goes on. -/
theorem agrees_marker_goto {f : Nat → Except RefStop α} (p p' : Phase) (c : Cause)
    (hi : ∀ u, exec (phaseInstr p.code) u = markerPhase c (fun v => .next (v.goto p')) u)
    (hf : ∀ v, Agrees s Q k (inPhase s L p' (q + 1) w) (f v)) (hp : p.code ≠ Phase.pPayload.code := by decide) :
    Agrees s Q (k + 1) (inPhase s L p q w)
      (refRead s.inBuf L p 1 q >>= fun v => refCheck (v == 1) c p (q + 1) >>= fun _ => f v) :=
  agrees_marker hcfg ht p c _ hi rfl hf hp

end

/-! ## The timestamps -/

/-- The working header behind a PTS field, by its segments. -/
theorem ptsWk_assembled (w : Wk) (hi : BitVec 3) (mid lo : BitVec 15) :
    ptsWk w (assembleTimestamp hi mid lo) =
      { w with
        ptsHi := .val hi, ptsMid := .val mid, ptsLo := .val lo, pts := .val (assembleTimestamp hi mid lo) } := by
  obtain ⟨hhi, hmid, hlo⟩ := segments_of_assembled hi mid lo
  rw [ptsWk, hhi, hmid, hlo]

/-- The working header behind a DTS field, by its segments. -/
theorem dtsWk_assembled (w : Wk) (hi : BitVec 3) (mid lo : BitVec 15) :
    dtsWk w (assembleTimestamp hi mid lo) =
      { w with
        dtsHi := .val hi, dtsMid := .val mid, dtsLo := .val lo, dts := .val (assembleTimestamp hi mid lo) } := by
  obtain ⟨hhi, hmid, hlo⟩ := segments_of_assembled hi mid lo
  rw [dtsWk, hhi, hmid, hlo]

/-- What the timestamp phases leave: the working header, the two timestamps, and where the header ends. -/
inductive AfterTimestamps (w : Wk) (f : BitVec 2) :
    Wk → Poisonable (BitVec 33) → Poisonable (BitVec 33) → Nat → Prop
  | none (hf : timestampFields f = .noTimestamp) : AfterTimestamps w f w .poison .poison 72
  | pts (hf : timestampFields f = .pts) (T : BitVec 33) : AfterTimestamps w f (ptsWk w T) (.val T) .poison 112
  | ptsDts (hf : timestampFields f = .ptsDts) (T T' : BitVec 33) :
    AfterTimestamps w f (dtsWk (ptsWk w T) T') (.val T) (.val T') 152

theorem hasPts_iff : ∀ f : BitVec 2, (timestampFields f).hasPts = true ↔ f.toNat = 0b10 ∨ f.toNat = 0b11 := by decide

theorem hasDts_iff : ∀ f : BitVec 2, (timestampFields f).hasDts = true ↔ f.toNat = 0b11 := by decide

theorem fields_of_has : ∀ f : TimestampFields, (f.hasPts = false → f = .noTimestamp) ∧
    (f.hasPts = true → f.hasDts = false → f = .pts) ∧ (f.hasDts = true → f = .ptsDts) := by
  intro f
  cases f <;> decide

section
variable {s : State} {L q : Nat} {w : Wk} (hcfg : s.cfg.wf = true) (ht : s.turns = [])
include hcfg ht

/-- The segments and markers of a PTS. -/
theorem agrees_pts {f : BitVec 2} (hf : w.ptsDtsFlags = .val f) :
    Agrees s
      (fun T v => v = inPhase s L (if (timestampFields f).hasDts then .pDtsPfx else .pExtchk) (q + 36) (ptsWk w T))
      6 (inPhase s L .pPtsHi q w)
      (refTimestamp s.inBuf L .badPtsMarker .pPtsHi .pPtsM0 .pPtsMid .pPtsM1 .pPtsLo .pPtsM2 q) := by
  refine agrees_records hcfg ht .pPtsHi .pPtsM0 (fun v w => { w with ptsHi := .val v }) (fun _ => rfl) fun hi => ?_
  refine agrees_marker_goto hcfg ht .pPtsM0 .pPtsMid .badPtsMarker (fun _ => rfl) fun _ => ?_
  refine agrees_records hcfg ht .pPtsMid .pPtsM1 (fun v w => { w with ptsMid := .val v }) (fun _ => rfl) fun mid => ?_
  refine agrees_marker_goto hcfg ht .pPtsM1 .pPtsLo .badPtsMarker (fun _ => rfl) fun _ => ?_
  refine agrees_records hcfg ht .pPtsLo .pPtsM2 (fun v w => { w with ptsLo := .val v }) (fun _ => rfl) fun lo => ?_
  refine agrees_marker hcfg ht .pPtsM2 .badPtsMarker _ (fun _ => rfl) ?_ fun _ => .reached rfl
  rw [BitVec.ofNat_toNat, BitVec.ofNat_toNat, BitVec.ofNat_toNat, BitVec.setWidth_eq, BitVec.setWidth_eq,
    BitVec.setWidth_eq, ptsWk_assembled]
  exact (needs_of_eq rfl _).trans <| (needs_of_eq rfl _).trans <| (needs_of_eq rfl _).trans <| needs_of_eq hf _

/-- The segments and markers of a DTS. -/
theorem agrees_dts :
    Agrees s (fun T v => v = inPhase s L .pExtchk (q + 36) (dtsWk w T)) 6 (inPhase s L .pDtsHi q w)
      (refTimestamp s.inBuf L .badDtsMarker .pDtsHi .pDtsM0 .pDtsMid .pDtsM1 .pDtsLo .pDtsM2 q) := by
  refine agrees_records hcfg ht .pDtsHi .pDtsM0 (fun v w => { w with dtsHi := .val v }) (fun _ => rfl) fun hi => ?_
  refine agrees_marker_goto hcfg ht .pDtsM0 .pDtsMid .badDtsMarker (fun _ => rfl) fun _ => ?_
  refine agrees_records hcfg ht .pDtsMid .pDtsM1 (fun v w => { w with dtsMid := .val v }) (fun _ => rfl) fun mid => ?_
  refine agrees_marker_goto hcfg ht .pDtsM1 .pDtsLo .badDtsMarker (fun _ => rfl) fun _ => ?_
  refine agrees_records hcfg ht .pDtsLo .pDtsM2 (fun v w => { w with dtsLo := .val v }) (fun _ => rfl) fun lo => ?_
  refine agrees_marker hcfg ht .pDtsM2 .badDtsMarker _ (fun _ => rfl) ?_ fun _ => .reached rfl
  rw [BitVec.ofNat_toNat, BitVec.ofNat_toNat, BitVec.ofNat_toNat, BitVec.setWidth_eq, BitVec.setWidth_eq,
    BitVec.setWidth_eq, dtsWk_assembled]
  exact (needs_of_eq rfl _).trans <| (needs_of_eq rfl _).trans <| needs_of_eq rfl _

/-- The timestamps that the flags announce. -/
theorem agrees_timestamps {f : BitVec 2} (hf : w.ptsDtsFlags = .val f) :
    Agrees s
      (fun x v => ∃ w', AfterTimestamps w f w' x.1 x.2.1 x.2.2 ∧ v = inPhase s L .pExtchk x.2.2 w') 14
      (inPhase s L (if (timestampFields f).hasPts then .pPtsPfx else .pExtchk) 72 w)
      (refTimestamps s.inBuf L f.toNat) := by
  obtain ⟨hnone, hpts, hdts⟩ := fields_of_has (timestampFields f)
  rw [refTimestamps]
  cases hp : (timestampFields f).hasPts with
  | false =>
    rw [if_neg ((hasPts_iff f).not.mp (by simp [hp]))]
    exact .reached ⟨w, .none (hnone hp), rfl⟩
  | true =>
    rw [if_pos ((hasPts_iff f).mp hp)]
    refine agrees_checks hcfg ht .pPtsPfx .badPtsPrefix (fun _ => w) _ (fun _ => rfl)
      (fun x => (needs_of_eq hf _).trans check_eq_next_beq) fun x => ?_
    refine (agrees_pts hcfg ht hf).bind (l := 7) fun T v hv => ?_
    subst hv
    cases hd : (timestampFields f).hasDts with
    | false =>
      rw [if_neg ((hasDts_iff f).not.mp (by simp [hd]))]
      exact .reached ⟨_, .pts (hpts hp hd) T, rfl⟩
    | true =>
      rw [if_pos ((hasDts_iff f).mp hd)]
      refine agrees_checks hcfg ht .pDtsPfx .badDtsPrefix (fun _ => ptsWk w T) _ (fun _ => rfl)
        (fun x => check_eq_next_beq) fun x => ?_
      refine (agrees_dts hcfg ht).bind (l := 0) fun T' v hv => ?_
      exact .reached ⟨_, .ptsDts (hdts hd) T T', hv⟩

end

/-! ## The header -/

/-- The working header `w` of a start parse in P_PAYLOAD holds the header `h` of the reference function: the fields that
P_PAYLOAD and P_COMMIT read, and the forbidden flags or what the commit takes. -/
structure Decoded (t : StreamIdTable) (w : Wk) (h : RefHeader) : Prop where
  streamId : w.streamId = .val h.id
  packetLength : ∃ n, w.packetLength = .val n ∧ n.toNat = h.plen
  aligned : h.pos % 8 = 0
  forbidden : h.late = true → h.id ∉ t.noHdr ∧ w.ptsDtsFlags = .val 0b01
  allowed : h.late = false → h.id ∉ t.noHdr → ∃ f, w.ptsDtsFlags = .val f ∧ f ≠ 0b01
  commits : h.late = false →
    commitHeader t w = .ok { hdr := h.hdr, id := h.id, hasOpt := h.hasOpt, fields := h.fields }

/-- The start parse stands in P_PAYLOAD with the header `h` decoded. -/
def AtPayload (s : State) (L : Nat) (h : RefHeader) (v : State) : Prop :=
  ∃ w, Decoded s.cfg.streamIds w h ∧ v = inPhase s L .pPayload h.pos w

theorem decoded_of_noHdr {t : StreamIdTable} {w : Wk} {sc : BitVec 24} {id : Byte} {pl : BitVec 16}
    (hsc : w.startCode = .val sc) (hid : w.streamId = .val id) (hpl : w.packetLength = .val pl) (h : id ∈ t.noHdr) :
    Decoded t w
      { hdr := fixedPartHdr sc id pl, id := id, plen := pl.toNat, hasOpt := false, fields := .noTimestamp,
        late := false, pos := 48 } where
  streamId := hid
  packetLength := ⟨pl, hpl, rfl⟩
  aligned := show 48 % 8 = 0 from rfl
  forbidden := nofun
  allowed _ hopt := absurd h hopt
  commits _ := commitHeader_of_mem_noHdr hsc hid hpl h

theorem AfterTimestamps.frame {w w' : Wk} {f : BitVec 2} {pts dts : Poisonable (BitVec 33)} {pos : Nat}
    (h : AfterTimestamps w f w' pts dts pos) :
    w'.startCode = w.startCode ∧ w'.streamId = w.streamId ∧ w'.packetLength = w.packetLength ∧
      w'.flags1 = w.flags1 ∧ w'.flags2 = w.flags2 ∧ w'.extFlags = w.extFlags ∧ w'.hdl = w.hdl ∧
      w'.ptsDtsFlags = w.ptsDtsFlags := by
  cases h <;> exact ⟨rfl, rfl, rfl, rfl, rfl, rfl, rfl, rfl⟩

/-- A header ends at a byte boundary (30_encoding.md R95). -/
theorem AfterTimestamps.aligned {w w' : Wk} {f : BitVec 2} {pts dts : Poisonable (BitVec 33)} {pos : Nat}
    (h : AfterTimestamps w f w' pts dts pos) : pos % 8 = 0 := by
  cases h <;> rfl

/-- The timestamps are what the commit takes. -/
theorem AfterTimestamps.commits {w w' : Wk} {f : BitVec 2} {pts dts : Poisonable (BitVec 33)} {pos : Nat}
    (h : AfterTimestamps w f w' pts dts pos) :
    (if (timestampFields f).hasPts then (valueOf .wkPts w'.pts).map .val else pure .poison) = .ok pts ∧
      (if (timestampFields f).hasDts then (valueOf .wkDts w'.dts).map .val else pure .poison) = .ok dts := by
  cases h with
  | none hf | pts hf | ptsDts hf => rw [hf]; exact ⟨rfl, rfl⟩

theorem decoded_of_optional {t : StreamIdTable} {w w' : Wk} {sc : BitVec 24} {id : Byte} {pl : BitVec 16}
    {f1 f2 hdl : Byte} {f : BitVec 2} {pts dts : Poisonable (BitVec 33)} {pos : Nat}
    (h : AfterTimestamps w f w' pts dts pos) (hsc : w.startCode = .val sc) (hid : w.streamId = .val id)
    (hopt : id ∉ t.noHdr) (hpl : w.packetLength = .val pl) (hf1 : w.flags1 = .ok f1) (hf2 : w.flags2 = .ok f2)
    (hhdl : w.hdl = .val hdl) (hf : w.ptsDtsFlags = .val f) :
    Decoded t w'
      { hdr := { fixedPartHdr sc id pl with
          flags1 := .val f1, flags2 := .val f2, hdl := .val hdl, pts := pts, dts := dts },
        id := id, plen := pl.toNat, hasOpt := true, fields := timestampFields f, late := f.toNat == 0b01,
        pos := pos } := by
  obtain ⟨hsc', hid', hpl', hf1', hf2', -, hhdl', hf'⟩ := h.frame
  obtain ⟨hpts, hdts⟩ := h.commits
  have hforbidden : (f.toNat == 0b01) = true ↔ f = 0b01 := by rw [beq_iff_eq, ← BitVec.toNat_inj]; rfl
  exact {
    streamId := hid'.trans hid
    packetLength := ⟨pl, hpl'.trans hpl, rfl⟩
    aligned := h.aligned
    forbidden := fun hlate => ⟨hopt, hforbidden.mp hlate ▸ hf'.trans hf⟩
    allowed := fun hlate _ => ⟨f, hf'.trans hf, hforbidden.not.mp (Bool.eq_false_iff.mp hlate)⟩
    commits := fun _ => commitHeader_of_optional (hsc'.trans hsc) (hid'.trans hid) hopt (hpl'.trans hpl)
      (hf1'.trans hf1) (hf2'.trans hf2) (hhdl'.trans hhdl) (hf'.trans hf) hpts hdts }

/-- The first byte of the cluster, as the reference function adds its fields up (10_state.md R48). -/
theorem flags1_value : ∀ (fx scr : BitVec 2) (pri dai cpy ooc : BitVec 1),
    BitVec.ofNat 8 (fx.toNat * 64 + scr.toNat * 16 + pri.toNat * 8 + dai.toNat * 4 + cpy.toNat * 2 + ooc.toNat) =
      fx ++ scr ++ pri ++ dai ++ cpy ++ ooc := by decide

/-- The second byte of the cluster (10_state.md R49). -/
theorem flags2_value : ∀ (f : BitVec 2) (escr esr dsm aci crc ext : BitVec 1),
    BitVec.ofNat 8 (f.toNat * 64 + escr.toNat * 32 + esr.toNat * 16 + dsm.toNat * 8 + aci.toNat * 4 + crc.toNat * 2 +
      ext.toNat) = f ++ (escr ++ esr ++ dsm ++ aci ++ crc ++ ext) := by decide

/-- No extension flag is set. -/
theorem extFlags_sum : ∀ escr esr dsm aci crc ext : BitVec 1,
    escr.toNat + esr.toNat + dsm.toNat + aci.toNat + crc.toNat + ext.toNat = 0 ↔
      escr ++ esr ++ dsm ++ aci ++ crc ++ ext = (0 : BitVec 6) := by decide

/-- P_EXTCHK goes on to P_PAYLOAD with the header decoded, or ends the parse for an extension flag. -/
theorem agrees_pExtchk {s : State} {L : Nat} {w : Wk} {h : RefHeader} {ext : BitVec 6} {sum : Nat}
    (ht : s.turns = []) (hext : w.extFlags = .ok ext) (hsum : sum = 0 ↔ ext = 0)
    (hd : Decoded s.cfg.streamIds w h) :
    Agrees s (AtPayload s L) 1 (inPhase s L .pExtchk h.pos w)
      (if sum = 0 then pure h else .error (.failed .unsupported .extFlagSet .pExtchk h.pos)) := by
  by_cases hzero : ext = 0
  · rw [if_pos (hsum.mpr hzero)]
    exact .runs (runs_pExtchk ht (hzero ▸ hext)) (.reached ⟨w, hd, rfl⟩)
  · rw [if_neg (hsum.not.mpr hzero)]
    refine .runs (runs_one ((step_inPhase ht (by decide)).trans ?_))
      (.failed (computes_failed (L := L) (w := w) .unsupported .extFlagSet))
    change execPExtchk (inPhase s L .pExtchk h.pos w) = _
    rw [execPExtchk, show (inPhase s L .pExtchk h.pos w).wk.extFlags = .ok ext from hext]
    exact if_pos hzero

section
variable {s : State} {L q k : Nat} {w : Wk} {α : Type} {Q : α → State → Prop}
  (hcfg : s.cfg.wf = true) (ht : s.turns = [])
include hcfg ht

theorem agrees_pLen {f : Nat → Except RefStop α} {id : Byte} (hid : w.streamId = .val id)
    (hf : ∀ x : BitVec 16, Agrees s Q k
      (inPhase s L (if hasOptionalHeader s.cfg.streamIds id then .pFixed else .pPayload) (q + 16)
        { w with packetLength := .val x }) (f x.toNat)) :
    Agrees s Q (k + 1) (inPhase s L .pLen q w) (refRead s.inBuf L .pLen 16 q >>= f) := by
  refine agrees_read hcfg ht .pLen (fun _ => rfl) fun x => ⟨_, (needs_of_eq hid _).trans ?_, hf x⟩
  rw [BitVec.ofNat_toNat, BitVec.setWidth_eq]
  rfl

theorem agrees_pHdl {f : Nat → Except RefStop α} {flags : BitVec 2} (hflags : w.ptsDtsFlags = .val flags)
    (hf : ∀ x : BitVec 8, Agrees s Q k
      (inPhase s L (if (timestampFields flags).hasPts then .pPtsPfx else .pExtchk) (q + 8) { w with hdl := .val x })
      (f x.toNat)) :
    Agrees s Q (k + 1) (inPhase s L .pHdl q w) (refRead s.inBuf L .pHdl 8 q >>= f) := by
  refine agrees_read hcfg ht .pHdl (fun _ => rfl) fun x => ⟨_, (needs_of_eq hflags _).trans ?_, hf x⟩
  rw [BitVec.ofNat_toNat, BitVec.setWidth_eq]
  rfl

theorem agrees_pPdf {f : Nat → Except RefStop α}
    (hf : ∀ x : BitVec 2, Agrees s Q k (inPhase s L .pEscrf (q + 2) { w with ptsDtsFlags := .val x }) (f x.toNat)) :
    Agrees s Q (k + 1) (inPhase s L .pPdf q w)
      (refRead s.inBuf L .pPdf 2 q >>= fun v =>
        refCheck (!(v == 0b01 && s.cfg.forbiddenPolicy == .failFast)) .forbiddenPtsDts .pPdf (q + 2) >>= fun _ =>
          f v) := by
  refine agrees_checks hcfg ht .pPdf .forbiddenPtsDts
    (ok := fun v => !(v == 0b01 && s.cfg.forbiddenPolicy == .failFast))
    (fun x => { w with ptsDtsFlags := .val x }) _ (fun _ => rfl) (fun x => ?_) hf
  have hok : (!(x.toNat == 0b01 && s.cfg.forbiddenPolicy == .failFast)) = true ↔
      ¬(x = 0b01 ∧ s.cfg.forbiddenPolicy = .failFast) := by
    rw [Bool.not_eq_true', ← Bool.not_eq_true, Bool.and_eq_true, beq_iff_eq, beq_iff_eq, ← BitVec.toNat_inj]
    rfl
  rw [flagsRead_eq, BitVec.ofNat_toNat, BitVec.setWidth_eq, ← ite_not]
  exact congrArg Host.Outcome.next (if_congr hok.symm rfl rfl)

/-- The header phases agree with `refHeader`. -/
theorem agrees_header : Agrees s (AtPayload s L) 32 (accept true L s) (refHeader s.cfg s.inBuf L) := by
  rw [refHeader]
  change Agrees s (AtPayload s L) 32 (inPhase s L .pStart 0 Wk.poison) _
  refine agrees_pattern hcfg ht .pStart .pSid .badStartCode (fun v w => { w with startCode := .val v }) (fun _ => rfl)
    fun sc => ?_
  refine agrees_records hcfg ht .pSid .pLen (fun v w => { w with streamId := .val v }) (fun _ => rfl) fun sid => ?_
  refine agrees_pLen hcfg ht rfl fun plen => ?_
  dsimp only
  rw [BitVec.ofNat_toNat, BitVec.setWidth_eq]
  by_cases hopt : hasOptionalHeader s.cfg.streamIds sid = true
  · rw [if_pos hopt, if_pos hopt]
    refine agrees_pattern hcfg ht .pFixed .pScr .badFixedBits (fun v w => { w with fixed := .val v }) (fun _ => rfl)
      fun fixed => ?_
    refine agrees_records hcfg ht .pScr .pPri (fun v w => { w with scrambling := .val v }) (fun _ => rfl) fun scr => ?_
    refine agrees_records hcfg ht .pPri .pDai (fun v w => { w with priority := .val v }) (fun _ => rfl) fun pri => ?_
    refine agrees_records hcfg ht .pDai .pCpy (fun v w => { w with dai := .val v }) (fun _ => rfl) fun dai => ?_
    refine agrees_records hcfg ht .pCpy .pOoc (fun v w => { w with copyright := .val v }) (fun _ => rfl) fun cpy => ?_
    refine agrees_records hcfg ht .pOoc .pPdf (fun v w => { w with original := .val v }) (fun _ => rfl) fun ooc => ?_
    refine agrees_pPdf hcfg ht fun flags => ?_
    refine agrees_records hcfg ht .pEscrf .pEsrf (fun v w => { w with escrFlag := .val v }) (fun _ => rfl)
      fun escr => ?_
    refine agrees_records hcfg ht .pEsrf .pDsmf (fun v w => { w with esRateFlag := .val v }) (fun _ => rfl)
      fun esr => ?_
    refine agrees_records hcfg ht .pDsmf .pAcif (fun v w => { w with dsmTrickFlag := .val v }) (fun _ => rfl)
      fun dsm => ?_
    refine agrees_records hcfg ht .pAcif .pCrcf (fun v w => { w with aciFlag := .val v }) (fun _ => rfl) fun aci => ?_
    refine agrees_records hcfg ht .pCrcf .pExtf (fun v w => { w with crcFlag := .val v }) (fun _ => rfl) fun crc => ?_
    refine agrees_records hcfg ht .pExtf .pHdl (fun v w => { w with extFlag := .val v }) (fun _ => rfl) fun ext => ?_
    refine agrees_pHdl hcfg ht rfl fun hdl => ?_
    refine (agrees_timestamps hcfg ht rfl).bind (k := 14) (l := 1) ?_
    rintro ⟨pts, dts, pos⟩ _ ⟨w, hafter, rfl⟩
    obtain ⟨-, -, -, -, -, hext, -⟩ := hafter.frame
    have hd := decoded_of_optional hafter rfl rfl (hasOptionalHeader_eq_true_iff.mp hopt) rfl rfl rfl rfl rfl
    dsimp only
    rw [flags1_value, flags2_value]
    simp only [BitVec.ofNat_toNat, BitVec.setWidth_eq]
    exact agrees_pExtchk ht hext (extFlags_sum escr esr dsm aci crc ext) hd
  · rw [if_neg hopt, if_neg hopt]
    refine .reached ⟨_, ?_, rfl⟩
    rw [BitVec.ofNat_toNat, BitVec.setWidth_eq, BitVec.ofNat_toNat, BitVec.setWidth_eq]
    exact decoded_of_noHdr rfl rfl rfl (hasOptionalHeader_eq_false_iff.mp (Bool.eq_false_iff.mpr hopt))

end

/-! ## The payload and the verdict -/

section
variable {s u : State} {L : Nat} {w : Wk} {h : RefHeader}

/-- The state behind P_PAYLOAD once it has counted `n` bytes of padding off. -/
def padded (u : State) (n : Nat) : State := { u.advance (8 * n) with consumed := .val n }.goto .pCommit

theorem execPPayloadPad_of_val {n : BitVec 16} (hn : u.wk.packetLength = .val n) :
    exec .pPayloadPad u = .next
      (if bytesLeft u < n.toNat then failed .truncated .shortPadding u else padded u n.toNat) := by
  rw [exec, execPPayloadPad, needs_of_eq hn, terminate_truncated]
  exact (apply_ite Host.Outcome.next _ _ _).symm

/-- P_COMMIT of a start parse that holds the header `h`: the late failure, or the commit (60_exceptions.md R256). -/
theorem runs_commit (ht : u.turns = []) (hp : u.phase = Phase.pCommit.code) (hs : u.cmdStart = true)
    (hd : Decoded u.cfg.streamIds u.wk h) :
    Runs 1 u (if h.late then failed .malformed .forbiddenPtsDts u
      else committed u { hdr := h.hdr, id := h.id, hasOpt := h.hasOpt, fields := h.fields }) := by
  refine runs_one ((step_pCommit ht hp).trans ?_)
  cases hlate : h.late with
  | true =>
    obtain ⟨hopt, hf⟩ := hd.forbidden hlate
    exact execPCommit_forbidden hs hd.streamId hopt hf
  | false =>
    by_cases hopt : h.id ∈ u.cfg.streamIds.noHdr
    · rw [exec, execPCommit, if_pos hs, needs_of_eq hd.streamId,
        if_neg (Bool.eq_false_iff.mp (hasOptionalHeader_eq_false_iff.mpr hopt)), terminate, terminateOk, if_pos hs,
        hd.commits hlate]
      rfl
    · obtain ⟨f, hf, hne⟩ := hd.allowed hlate hopt
      exact execPCommit_of_optional hs hd.streamId hopt hf hne (hd.commits hlate)

/-- The padding branch and P_COMMIT compute the reference function's results of a padding stream. -/
theorem computes_padding (ht : s.turns = []) (href : refHeader s.cfg s.inBuf L = .ok h)
    (hd : Decoded s.cfg.streamIds w h) (hpad : h.id = s.cfg.streamIds.paddingStream) :
    Computes s 2 (inPhase s L .pPayload h.pos w) (parse s.cfg s.inBuf L true) := by
  have hnil : (inPhase s L .pPayload h.pos w).turns = [] := ht
  have hstep := step_of_padding (pespTurn_of_nil hnil) rfl rfl hd.streamId hpad
  obtain ⟨n, hn, hplen⟩ := hd.packetLength
  have hleft : bytesLeft (inPhase s L .pPayload h.pos w) = L - h.pos / 8 := bytesLeft_of_aligned hd.aligned
  rw [dequeued_of_nil hnil, execPPayloadPad_of_val hn, hleft, hplen] at hstep
  rw [parse, if_pos rfl, href]
  dsimp only
  rw [if_pos (show isPaddingStream s.cfg.streamIds h.id = true from decide_eq_true hpad)]
  by_cases hshort : L - h.pos / 8 < h.plen
  · rw [if_pos hshort] at hstep ⊢
    exact ((computes_failed .truncated .shortPadding).of_runs (runs_one hstep)).mono (by decide)
  · rw [if_neg hshort] at hstep ⊢
    have hcommit := runs_commit (u := padded (inPhase s L .pPayload h.pos w) h.plen) ht rfl rfl hd
    refine .of_runs (k := 0) ((runs_one hstep).trans hcommit) ?_
    cases h.late with
    | true => exact .ended rfl rfl (List.append_nil _).symm
    | false => exact .ended rfl rfl (List.append_nil _).symm

/-- The forwarding branch and P_COMMIT compute the reference function's results of any other stream. -/
theorem computes_forwarding (ht : s.turns = []) (href : refHeader s.cfg s.inBuf L = .ok h)
    (hd : Decoded s.cfg.streamIds w h) (hpad : h.id ≠ s.cfg.streamIds.paddingStream) :
    Computes s 2 (inPhase s L .pPayload h.pos w) (parse s.cfg s.inBuf L true) := by
  have hnil : (inPhase s L .pPayload h.pos w).turns = [] := ht
  have hstep := step_of_forwarding (pespTurn_of_nil hnil) rfl rfl hd.streamId hpad
  rw [dequeued_of_nil hnil] at hstep
  have hpos : (inPhase s L .pPayload h.pos w).pos = 8 * (h.pos / 8) :=
    (Nat.mul_div_cancel' (Nat.dvd_of_mod_eq_zero hd.aligned)).symm
  rw [parse, if_pos rfl, href]
  dsimp only
  rw [if_neg (by simpa [isPaddingStream] using hpad)]
  cases hrange : Memory.range s.inBuf (h.pos / 8) (L - h.pos / 8) with
  | error a => exact (Computes.stopped (hstep.trans (execPPayloadFwd_of_unwritten hpos hrange))).mono (by decide)
  | ok bytes =>
    have hforward := runs_one (hstep.trans (execPPayloadFwd_of_range hpos hrange))
    have hcommit := runs_commit (u := sent (inPhase s L .pPayload h.pos w) (h.pos / 8) bytes) ht rfl rfl hd
    refine .of_runs (k := 0) (hforward.trans hcommit) ?_
    cases h.late with
    | true => exact .ended rfl rfl rfl
    | false => exact .ended rfl rfl rfl

/-! ## Whole parses -/

theorem computes_start (hcfg : s.cfg.wf = true) (ht : s.turns = []) :
    Computes s 34 (accept true L s) (parse s.cfg s.inBuf L true) := by
  refine (agrees_header hcfg ht).computes (l := 2) ?_ (fun r c p q href => ?_) (fun a href => ?_)
  · rintro h _ href ⟨w, hd, rfl⟩
    by_cases hpad : h.id = s.cfg.streamIds.paddingStream
    · exact computes_padding ht href hd hpad
    · exact computes_forwarding ht href hd hpad
  · rw [parse, if_pos rfl, href]
  · rw [parse, if_pos rfl, href]

theorem computes_continuation (ht : s.turns = []) :
    Computes s 2 (accept false L s) (parse s.cfg s.inBuf L false) := by
  rw [parse, if_neg Bool.false_ne_true]
  cases hrange : Memory.range s.inBuf 0 L with
  | error a =>
    have hstop := (step_continuation_payload ht).trans (execPPayloadFwd_of_unwritten (o := 0) rfl hrange)
    exact (Computes.stopped hstop).mono (by decide)
  | ok bytes => exact .of_runs (runs_continuation ht hrange) (.ended rfl rfl rfl)

end

/-- Settles O49: a start parse by its header and its payload, a continuation parse by its payload alone. -/
theorem runsComputeParse : Obligations.RunsComputeParse := by
  unfold Obligations.RunsComputeParse
  intro s start len hcfg ht
  have h : Computes s 34 (accept start len s) (parse s.cfg s.inBuf len start) := by
    cases start with
    | true => exact computes_start hcfg ht
    | false => exact (computes_continuation ht).mono (by decide)
  generalize parse s.cfg s.inBuf len start = r at h ⊢
  cases r with
  | ok o => exact h
  | error a => exact h

end Sys2Proof.Proofs.Reference
end

section
/-! The last phases before the verdict (43_payload_result.md R220, R224 to R226): P_EXTCHK and the two branches of
P_PAYLOAD by their next state or their stop, and the events that steps send to the sink. -/

namespace Sys2Proof.Proofs.Payload
open Sys2Proof.Machine Sys2Proof.Proofs.Moves Sys2Proof.Proofs.Turns Sys2Proof.Proofs.Steps Sys2Proof.Proofs.Stops
open Sys2Proof.Proofs.Invariant Sys2Proof.Proofs.Progress Sys2Proof.Proofs.PhaseRuns Sys2Proof.Proofs.ByteCounts
open Sys2Proof.Proofs.Continuation Sys2Proof.Proofs.Reference Sys2Proof.Laws.Shape

/-! ## P_EXTCHK -/

theorem extFlags_of_val {w : Wk} {escr esRate dsm aci crc ext : BitVec 1} (hescr : w.escrFlag = .val escr)
    (hesr : w.esRateFlag = .val esRate) (hdsm : w.dsmTrickFlag = .val dsm) (haci : w.aciFlag = .val aci)
    (hcrc : w.crcFlag = .val crc) (hext : w.extFlag = .val ext) :
    w.extFlags = .ok (escr ++ esRate ++ dsm ++ aci ++ crc ++ ext) := by
  rw [Wk.extFlags, hescr, hesr, hdsm, haci, hcrc, hext]
  rfl

/-- Some extension flag is set. -/
theorem extFlags_ne_zero_iff : ∀ escr esRate dsm aci crc ext : BitVec 1,
    escr ++ esRate ++ dsm ++ aci ++ crc ++ ext ≠ (0 : BitVec 6) ↔
      escr = 1 ∨ esRate = 1 ∨ dsm = 1 ∨ aci = 1 ∨ crc = 1 ∨ ext = 1 := by decide

theorem execPExtchk_of_ok {s : State} {flags : BitVec 6} (h : s.wk.extFlags = .ok flags) :
    exec .pExtchk s = .next (if flags ≠ 0 then failed .unsupported .extFlagSet s else s.goto .pPayload) := by
  simp only [exec, execPExtchk, h, terminate_unsupported]
  exact (apply_ite Host.Outcome.next _ _ _).symm

/-- Settles O33: the six flags side by side are 0 exactly if none is set. -/
theorem extensionCheck : Obligations.ExtensionCheck := by
  unfold Obligations.ExtensionCheck
  intro s escr esRate dsm aci crc ext hescr hesr hdsm haci hcrc hext
  rw [execPExtchk_of_ok (extFlags_of_val hescr hesr hdsm haci hcrc hext)]
  exact congrArg Host.Outcome.next (if_congr (extFlags_ne_zero_iff escr esRate dsm aci crc ext) rfl rfl)

/-! ## P_PAYLOAD -/

/-- Settles O34: the padding branch compares the bytes left with `packet_length` and reads none. -/
theorem paddingDiscarded : Obligations.PaddingDiscarded := by
  unfold Obligations.PaddingDiscarded
  exact fun s n hn => execPPayloadPad_of_val hn

theorem pos_of_aligned {s : State} (h : s.pos % 8 = 0) : s.pos = 8 * (s.pos / 8) :=
  (Nat.mul_div_cancel' (Nat.dvd_of_mod_eq_zero h)).symm

theorem execPPayloadFwd_of_unaligned {s : State} (h : s.pos % 8 ≠ 0) :
    exec .pPayloadFwd s = .fault .notByteAligned := by
  rw [exec, execPPayloadFwd, currentByte_of_unaligned h]

/-- The forwarding branch that goes on has read the rest of the range, and sends it. -/
theorem execPPayloadFwd_next {s t : State} (h : exec .pPayloadFwd s = .next t) :
    ∃ bytes, Memory.range s.inBuf (s.pos / 8) (s.len - s.pos / 8) = .ok bytes ∧ t = sent s (s.pos / 8) bytes := by
  by_cases halign : s.pos % 8 = 0
  · cases hr : Memory.range s.inBuf (s.pos / 8) (s.len - s.pos / 8) with
    | error a =>
      rw [execPPayloadFwd_of_unwritten (pos_of_aligned halign) hr] at h
      cases h
    | ok bytes =>
      rw [execPPayloadFwd_of_range (pos_of_aligned halign) hr] at h
      exact ⟨bytes, rfl, (Host.Outcome.next.inj h).symm⟩
  · rw [execPPayloadFwd_of_unaligned halign] at h
    cases h

/-- Settles O35: the rest of the range is read and sent, or names its first unwritten byte; off a byte boundary nothing
is read. -/
theorem payloadForwarded : Obligations.PayloadForwarded := by
  unfold Obligations.PayloadForwarded
  intro s o k
  refine ⟨fun halign hw => ?_, fun halign hw => ?_, execPPayloadFwd_of_unaligned⟩
  · obtain ⟨bytes, hr⟩ := Memory.range_of_written hw
    obtain ⟨hlen, hread⟩ := Memory.range_ok hr
    exact ⟨bytes, hlen, hread, execPPayloadFwd_of_range (pos_of_aligned halign) hr⟩
  · cases hr : Memory.range s.inBuf o k with
    | ok bytes => exact absurd (Memory.written_of_range hr) hw
    | error a =>
      obtain ⟨hlo, hhi, hpoison⟩ := Memory.range_error hr
      exact ⟨a, execPPayloadFwd_of_unwritten (pos_of_aligned halign) hr, hlo, hhi, hpoison⟩

/-! ## Events -/

/-- The forwarding branch alone sends to the sink (43_payload_result.md R226). -/
theorem phaseMove_sinkLog {i : Instr} {s t : State} (h : PhaseMove i s t) (hi : i ≠ .pPayloadFwd) :
    t.sinkLog = s.sinkLog := by
  cases h with
  | forwards _ hfwd _ => exact absurd hfwd hi
  | _ => subst t; rfl

/-- No phase takes FED back (10_state.md R38). -/
theorem phaseMove_fed {i : Instr} {s t : State} (h : PhaseMove i s t) (hfed : s.status.fed = true) :
    t.status.fed = true := by
  cases h with
  | forwards _ _ ht => subst ht; rfl
  | _ => subst t; exact hfed

/-- Of the host's moves only RESET touches the sink's log. -/
theorem hostMove_sinkLog {i : Instr} {s t : State} (h : HostMove i s t) (hi : i ≠ .reset) :
    t.sinkLog = s.sinkLog := by
  cases h with
  | resets hr _ => exact absurd hr hi
  | _ => subst t; rfl

/-- Of the host's moves only an accept, which finds PESP not busy, and RESET take FED back. -/
theorem hostMove_fed {i : Instr} {s t : State} (h : HostMove i s t) (hi : i ≠ .reset) (hfed : s.status.fed = true) :
    t.status.fed = true ∨ (s.status.busy = false ∧ t.status.busy = true) := by
  cases h with
  | resets hr _ => exact absurd hr hi
  | commandAccepted _ _ _ hb _ ht => subst ht; exact .inr ⟨hb, rfl⟩
  | _ => subst t; exact .inl hfed

/-- A turn of the host that is not RESET's runs another instruction. -/
theorem ne_reset_of_turn {s : State} {w : PortWord} {i : Instr} (ht : s.turns.head? = some (.host w))
    (hd : decode s.cfg w = .ok i) (hr : s.turns.head? ≠ some resetTurn) : i ≠ .reset := by
  rintro rfl
  exact hr (by rw [ht, word_of_decode_reset hd])

/-- P_PAYLOAD takes its padding branch, or it forwards and the parse is no padding stream's (43_payload_result.md R224,
R225). -/
theorem step_pPayload {s : State} (h : s.Inv) (ht : s.pespTurn = true) (hp : s.phase = Phase.pPayload.code) :
    step s = exec .pPayloadPad (dequeued s) ∨
      (step s = exec .pPayloadFwd (dequeued s) ∧
        (s.cmdStart = true → ∀ id, s.wk.streamId = .val id → id ≠ s.cfg.streamIds.paddingStream)) := by
  cases hs : s.cmdStart with
  | false => exact .inr ⟨step_of_continuation ht hp hs, nofun⟩
  | true =>
    obtain ⟨id, hid, -⟩ := payload_offset h hs hp
    by_cases hpad : id = s.cfg.streamIds.paddingStream
    · exact .inl (step_of_padding ht hp hs hid hpad)
    · refine .inr ⟨step_of_forwarding ht hp hs hid hpad, fun _ id' hid' => ?_⟩
      obtain rfl := Poisonable.val.inj (hid.symm.trans hid')
      exact hpad

/-- In P_PAYLOAD no event of the running command has been sent. -/
theorem not_fed_of_pPayload {s : State} (h : s.Inv) (hp : s.phase = Phase.pPayload.code) : s.status.fed = false := by
  have hrun := running_of_inv h (hp ▸ by decide)
  obtain ⟨-, -, -, -, -, -, hpay, -⟩ := h
  obtain ⟨-, hfed⟩ := (if_neg (hp ▸ by decide)).mp (hpay hrun.busy)
  exact hfed

/-- A turn of PESP leaves the sink's log, or is the forwarding branch's and sends the rest of the range. -/
theorem event_of_pespTurn {s t : State} (h : s.Inv) (ht : s.pespTurn = true) (hstep : step s = .next t) :
    t.sinkLog = s.sinkLog ∨
      (s.phase = Phase.pPayload.code ∧ t.status.fed = true ∧
        (s.cmdStart = true → ∀ id, s.wk.streamId = .val id → id ≠ s.cfg.streamIds.paddingStream) ∧
        ∃ bytes, Memory.range s.inBuf (s.pos / 8) (s.len - s.pos / 8) = .ok bytes ∧
          t.sinkLog = s.sinkLog ++ [bytes]) := by
  by_cases hp : s.phase = Phase.pPayload.code
  · rcases step_pPayload h ht hp with hpad | ⟨hfwd, hid⟩
    · have hm := phaseMove_of_exec (c := s.cfg) rfl (hpad.symm.trans hstep)
      exact .inl (phaseMove_sinkLog (s := dequeued s) hm nofun)
    · obtain ⟨bytes, hr, rfl⟩ := execPPayloadFwd_next (hfwd.symm.trans hstep)
      exact .inr ⟨hp, rfl, hid, bytes, hr, rfl⟩
  · obtain ⟨i, ⟨hcode, -⟩, hm⟩ := phaseMove_of_step ht hstep
    refine .inl (phaseMove_sinkLog (s := dequeued s) hm ?_)
    rintro rfl
    exact hp hcode.symm

/-- Settles O56: a turn of PESP by its branch, and a turn of the host, which sends nothing. -/
theorem atMostOneEventPerCommand : Obligations.AtMostOneEventPerCommand := by
  unfold Obligations.AtMostOneEventPerCommand
  intro s t h hstep hr
  cases stepMove_of_step hstep with
  | pesp i ht _ hm =>
    refine ⟨(event_of_pespTurn h ht hstep).imp id ?_, fun hfed => .inl (phaseMove_fed (s := dequeued s) hm hfed)⟩
    rintro ⟨hp, hfed, hid, hbytes⟩
    exact ⟨ht, hp, not_fed_of_pPayload h hp, hfed, hid, hbytes⟩
  | host w i ht hd hm =>
    have hi := ne_reset_of_turn ht hd hr
    exact ⟨.inl (hostMove_sinkLog (s := dequeued s) hm hi), hostMove_fed (s := dequeued s) hm hi⟩
  | unit w i ht _ =>
    rcases turn_of_inv h with hp | ⟨w', rest, hs⟩
    · simp [State.pespTurn, ht] at hp
    · simp [hs] at ht

end Sys2Proof.Proofs.Payload
end

section
/-! The header-data-length is never used (43_payload_result.md R223): a start parse of an id with an optional header and
the same parse with byte 8 of `IN` rewritten go step by step through states that differ only in that byte and in the two
registers that record it. -/

namespace Sys2Proof.Proofs.HeaderDataLength
open Sys2Proof.Machine Sys2Proof.Proofs.Moves Sys2Proof.Proofs.Turns Sys2Proof.Proofs.Steps Sys2Proof.Proofs.Stops
open Sys2Proof.Proofs.Frames Sys2Proof.Proofs.Decoding Sys2Proof.Proofs.Commit Sys2Proof.Proofs.Invariant
open Sys2Proof.Proofs.Reader Sys2Proof.Proofs.PhaseRuns Sys2Proof.Proofs.Continuation Sys2Proof.Proofs.Reference
open Sys2Proof.Proofs.Payload
open Sys2Proof.Laws.Shape (portOf)

/-! ## Buffers that agree on what is read -/

theorem range_congr {m m' : Memory} {o k : Nat} (h : ∀ a, o ≤ a → Memory.read m' a = Memory.read m a) :
    Memory.range m' o k = Memory.range m o k := by
  induction k generalizing o with
  | zero => rfl
  | succ k ih => rw [Memory.range, Memory.range, h o le_rfl, ih fun a ha => h a (Nat.le_of_succ_le ha)]

theorem bits_congr {m m' : Memory} {n i v : Nat}
    (h : ∀ j, i ≤ j → j < i + n → Memory.read m' (j / 8) = Memory.read m (j / 8)) :
    Memory.bits m' n i v = Memory.bits m n i v := by
  induction n generalizing i v with
  | zero => rfl
  | succ n ih =>
    rw [Memory.bits, Memory.bits, h i le_rfl (by omega)]
    cases Memory.read m (i / 8) with
    | poison => rfl
    | val b => exact ih fun j hlo hhi => h j (by omega) (by omega)

/-- `m'` is `m` with byte 8 written. -/
structure WritesByte8 (m m' : Memory) : Prop where
  other : ∀ a, a ≠ 8 → Memory.read m' a = Memory.read m a
  written : ∃ b, Memory.read m' 8 = .val b

theorem writesByte8_write (m : Memory) (b : Byte) : WritesByte8 m (Memory.write m 8 b) :=
  ⟨fun _ ha => Memory.read_write_other m b ha, b, Memory.read_write_same m 8 b⟩

/-! ## Parses that run side by side -/

/-- The state `u` over the input buffer `m`, with other values in the registers that record the header-data-length. -/
def withHdl (m : Memory) (x x' : Poisonable Byte) (u : State) : State :=
  { u with inBuf := m, wk := { u.wk with hdl := x }, hdr := { u.hdr with hdl := x' } }

/-- `v` is `u` over the buffer `m` but for the two registers that record the header-data-length; the working one holds
a value in `v` exactly if it does in `u`. -/
inductive Twin (m : Memory) (u : State) : State → Prop
  | intro (x x' : Poisonable Byte) (hx : x.isVal = u.wk.hdl.isVal) : Twin m u (withHdl m x x' u)

/-- Where the first outcome is a next state, the second is a twin of it. -/
def Follows (m : Memory) (o o' : Out) : Prop := ∀ t, o = .next t → ∃ t', o' = .next t' ∧ Twin m t t'

section
variable {m : Memory} {u v : State}

theorem follows_next (h : Twin m u v) : Follows m (.next u) (.next v) := by
  intro t ht
  obtain rfl := Host.Outcome.next.inj ht
  exact ⟨v, rfl, h⟩

theorem Twin.failed (h : Twin m u v) (r : Result) (c : Cause) : Twin m (failed r c u) (failed r c v) := by
  obtain ⟨x, x', hx⟩ := h
  exact .intro x x' hx

theorem follows_ite {p : Prop} [Decidable p] {a b a' b' : Out} (ha : Follows m a a') (hb : Follows m b b') :
    Follows m (if p then a else b) (if p then a' else b') := by
  split
  · exact ha
  · exact hb

/-- A check of a phase. -/
theorem follows_check {p : Prop} [Decidable p] {r : Result} {c : Cause} {t t' : State} (hr : r ≠ .ok)
    (h : Twin m u v) (ht : Twin m t t') :
    Follows m (if p then terminate r c u else .next t) (if p then terminate r c v else .next t') := by
  refine follows_ite ?_ (follows_next ht)
  cases r with
  | ok => exact absurd rfl hr
  | malformed | unsupported | truncated => exact follows_next (h.failed _ c)

theorem follows_needs {α : Type} {r : RegName} {y : Poisonable α} {k k' : α → Out}
    (hk : ∀ z, y = .val z → Follows m (k z) (k' z)) : Follows m (needs r y k) (needs r y k') := by
  cases y with
  | poison => intro t ht; cases ht
  | val z => exact hk z rfl

theorem readField_of_bits {s : State} {n a : Nat} (h1 : 1 ≤ n) (h2 : n ≤ s.cfg.readWidth)
    (hfits : s.pos + n ≤ 8 * s.len) (h : Memory.bits s.inBuf n s.pos 0 = .ok a) (k : Nat → State → Out) :
    readField n s k = k a (s.advance n) := by
  rw [readField, readBits, if_neg (by omega), if_pos ((available_iff h1).mpr hfits), h]

/-- The second parse finds a field where the first does, and goes on from its own value. -/
theorem follows_readField {n : Nat} {k : Nat → State → Out} (hv : Twin m u v)
    (hread : ∀ a, Memory.bits u.inBuf n u.pos 0 = .ok a →
      ∃ b, Memory.bits m n u.pos 0 = .ok b ∧ Follows m (k a (u.advance n)) (k b (v.advance n))) :
    Follows m (readField n u k) (readField n v k) := by
  obtain ⟨x, x', hx⟩ := hv
  by_cases hw : n = 0 ∨ u.cfg.readWidth < n
  · rw [readField_badWidth hw]
    intro t ht
    cases ht
  · have h1 : 1 ≤ n := by omega
    have h2 : n ≤ u.cfg.readWidth := by omega
    rcases le_or_gt (u.pos + n) (8 * u.len) with hfits | hshort
    · cases hbits : Memory.bits u.inBuf n u.pos 0 with
      | error a =>
        rw [readField_of_unwritten h1 h2 hfits hbits]
        intro t ht
        cases ht
      | ok a =>
        obtain ⟨b, hb, hk⟩ := hread a hbits
        rw [readField_of_bits h1 h2 hfits hbits, readField_of_bits (s := withHdl m x x' u) h1 h2 hfits hb]
        exact hk
    · rw [readField_short h1 h2 hshort, readField_short (s := withHdl m x x' u) h1 h2 hshort]
      exact follows_next ((Twin.intro x x' hx).failed _ _)

/-- A field that does not touch byte 8 has the same value in both parses. -/
theorem follows_field {n : Nat} {k : Nat → State → Out} (hm : WritesByte8 u.inBuf m) (hv : Twin m u v)
    (hclear : u.pos + n ≤ 64 ∨ 72 ≤ u.pos) (hk : ∀ a, Follows m (k a (u.advance n)) (k a (v.advance n))) :
    Follows m (readField n u k) (readField n v k) := by
  refine follows_readField hv fun a ha => ⟨a, (bits_congr fun j hlo hhi => ?_).trans ha, hk a⟩
  exact hm.other (j / 8) (by omega)

theorem follows_marker {c : Cause} {k : State → Out} (hm : WritesByte8 u.inBuf m) (hv : Twin m u v)
    (hclear : u.pos + 1 ≤ 64 ∨ 72 ≤ u.pos) (hadv : Twin m (u.advance 1) (v.advance 1))
    (hk : Follows m (k (u.advance 1)) (k (v.advance 1))) : Follows m (markerPhase c k u) (markerPhase c k v) :=
  follows_field hm hv hclear fun _ => follows_ite (follows_next (hadv.failed _ c)) hk

end

/-! ## The start parse -/

/-- A start parse left to itself, or its end, of a range whose stream id has an optional header. -/
structure StartParse (u : State) : Prop where
  turns : u.turns = []
  start : u.cmdStart = true
  progress : u.progressInv
  streamId : ∃ id, Memory.read u.inBuf 3 = .val id ∧ id ∉ u.cfg.streamIds.noHdr
  hasOpt : u.past 0x02 → u.wkHasOpt = true

section
variable {u t : State} {i : Instr}

theorem StartParse.decoded (h : StartParse u) (hne : u.phase ≠ Phase.idle.code) :
    u.decodedInv ∧ (u.phase ≠ Phase.pCommit.code → u.pos = u.phasePos) := (if_pos h.start).mp (h.progress hne)

/-- In a phase that reads a field, POS is the field's offset (30_encoding.md R82). -/
theorem StartParse.pos_eq_fieldOffset (h : StartParse u) (hcode : phaseCode i = u.phase)
    (hi : 0 < (phaseCode i).toNat ∧ (phaseCode i).toNat < 0x20) : u.pos = fieldOffset (phaseCode i).toNat := by
  obtain ⟨hlo, hhi⟩ := hi
  rw [hcode] at hlo hhi ⊢
  obtain ⟨hidle, hpay, hcommit⟩ := headerCode_ne u.phase hlo (by omega)
  obtain ⟨-, hpos⟩ := h.decoded hidle
  have hext : u.phase ≠ Phase.pExtchk.code := fun hp => absurd (hp ▸ hhi) (by decide)
  rw [hpos hcommit, State.phasePos, if_neg (not_or.mpr ⟨hext, hpay⟩)]

/-- The payload begins behind the header-data-length (30_encoding.md R92). -/
theorem StartParse.payload_pos (h : StartParse u) (hp : u.phase = Phase.pPayload.code) :
    u.pos % 8 = 0 ∧ 72 ≤ u.pos := by
  have hheader : 9 ≤ headerBytes true u.wkFields := by cases u.wkFields <;> decide
  obtain ⟨-, hpos⟩ := h.decoded (hp ▸ by decide)
  rw [hpos (hp ▸ by decide), State.phasePos, if_pos (.inr hp), h.hasOpt (by rw [State.past, hp]; decide)]
  omega

theorem progressInv_phaseMove (h : StartParse u) (hs : Selected i u) (hm : PhaseMove i u t) : t.progressInv := by
  obtain ⟨hcode, -⟩ := hs
  cases hm with
  | idles _ ht => exact ht ▸ h.progress
  | decodes n w p hd _ ht =>
    subst ht
    obtain ⟨-, -, hlo, hhi⟩ := decodes_phases hd
    obtain ⟨hidle, -, hcommit⟩ := headerCode_ne u.phase (hcode ▸ hlo) (hcode ▸ hhi)
    obtain ⟨hdec, hpos⟩ := h.decoded hidle
    exact fun _ => (if_pos h.start).mpr
      ⟨decodes_decodedInv hd hcode.symm hdec, fun _ => decodes_pos hd hcode.symm hdec (hpos hcommit)⟩
  | pads n hi _ ht | forwards bytes hi ht =>
    subst hi ht
    exact progressInv_pCommit h.progress hcode.symm rfl rfl rfl rfl
  | fails _ _ _ _ _ _ _ _ _ ht | commits _ _ _ _ _ ht | continues _ _ ht =>
    subst ht
    exact fun hne => absurd rfl hne

/-- P_SID records byte 3. -/
theorem hasOpt_of_pSid (h : StartParse u) (hcode : phaseCode .pSid = u.phase) (ht : exec .pSid u = .next t)
    (hpast : t.past 0x02) : t.wkHasOpt = true := by
  obtain ⟨id, hread, hopt⟩ := h.streamId
  have hpos : u.pos = 8 * 3 := h.pos_eq_fieldOffset hcode (by decide)
  have hfield : fieldPhase 8 (fun v w => { w with streamId := .val v }) .pLen u = .next t := ht
  rcases fieldPhase_next hfield with ⟨-, rfl⟩ | ⟨-, -, rfl⟩
  · exact absurd hpast (by simp [Phase.code])
  · rw [hpos, streamValue_byte hread, BitVec.ofNat_toNat, BitVec.setWidth_eq]
    exact hasOptionalHeader_eq_true_iff.mpr hopt

/-- Behind P_SID a header phase comes from behind P_SID. -/
theorem past_pSid_of_decodes {n : Nat} {w : Wk} {p : Phase} (hd : Decodes u i n w p) :
    i ≠ .pSid → 0x02 < p.code.toNat → 0x02 < (phaseCode i).toNat := by
  cases hd <;> decide

theorem hasOpt_phaseMove (h : StartParse u) (hs : Selected i u) (ht : exec i u = .next t) (hm : PhaseMove i u t)
    (hpast : t.past 0x02) : t.wkHasOpt = true := by
  obtain ⟨hcode, -⟩ := hs
  cases hm with
  | idles _ ht => exact ht ▸ h.hasOpt (ht ▸ hpast)
  | decodes n w p hd _ ht' =>
    by_cases hi : i = .pSid
    · subst hi
      exact hasOpt_of_pSid h hcode ht hpast
    · subst ht'
      have hpast' : u.past 0x02 := by
        rw [State.past, ← hcode]
        exact past_pSid_of_decodes hd hi hpast
      exact (decodes_wkHasOpt hd hi).trans (h.hasOpt hpast')
  | pads n hi _ ht' | forwards bytes hi ht' =>
    subst hi ht'
    exact h.hasOpt (by rw [State.past, ← hcode]; decide)
  | fails _ _ _ _ _ _ _ _ _ ht' | commits _ _ _ _ _ ht' | continues _ _ ht' =>
    subst ht'
    exact absurd hpast (by simp [Phase.code])

end

/-! ## The phases -/

/-- Another header-data-length in the working header is another one in the commit, and nothing else. -/
theorem commitHeader_setHdl {t : StreamIdTable} {w : Wk} {hc : HeaderCommit} (h : commitHeader t w = .ok hc)
    (hopt : hc.id ∉ t.noHdr) :
    w.hdl.isVal = true ∧ ∀ x, commitHeader t { w with hdl := .val x } =
      .ok { hc with hdr := { hc.hdr with hdl := .val x } } := by
  obtain ⟨sc, hsc, h⟩ := bind_ok h
  obtain ⟨id, hid, h⟩ := bind_ok h
  obtain ⟨pl, hpl, h⟩ := bind_ok h
  split at h
  · obtain ⟨f1, hf1, h⟩ := bind_ok h
    obtain ⟨f2, hf2, h⟩ := bind_ok h
    obtain ⟨hdl, hhdl, h⟩ := bind_ok h
    obtain ⟨f, hf, h⟩ := bind_ok h
    obtain ⟨pts, hpts, h⟩ := bind_ite_ok h
    obtain ⟨dts, hdts, h⟩ := bind_ite_ok h
    obtain rfl := Except.ok.inj h
    refine ⟨by rw [valueOf_ok hhdl]; rfl, fun x => ?_⟩
    exact commitHeader_of_optional (w := { w with hdl := .val x }) (valueOf_ok hsc) (valueOf_ok hid) hopt
      (valueOf_ok hpl) hf1 hf2 rfl (valueOf_ok hf) hpts hdts
  · rename_i hno
    obtain rfl := Except.ok.inj h
    exact absurd (hasOptionalHeader_eq_true_iff.mpr hopt) hno

/-- `Terminate(OK, NONE)` of a start parse with every register that its commit takes. -/
theorem terminateOk_of_start {s : State} {hc : HeaderCommit} (hs : s.cmdStart = true)
    (hok : commitHeader s.cfg.streamIds s.wk = .ok hc) : terminateOk s = .next (committed s hc) := by
  rw [terminateOk, if_pos hs, hok]

section
variable {m : Memory} {u : State} {x x' : Poisonable Byte} (hm : WritesByte8 u.inBuf m) (hs : StartParse u)
  (hx : x.isVal = u.wk.hdl.isVal)

include hm hs hx in
/-- P_HDL finds another value in the second parse, and goes on to the same phase. -/
theorem follows_pHdl (hcode : phaseCode .pHdl = u.phase) :
    Follows m (exec .pHdl u) (exec .pHdl (withHdl m x x' u)) := by
  have hpos : u.pos = 64 := hs.pos_eq_fieldOffset hcode (by decide)
  obtain ⟨b, hb⟩ := hm.written
  have hbits := Memory.bits_of_written (m := m) (n := 8) (i := u.pos) (v := 0) fun j hlo hhi =>
    ⟨b, by rw [show j / 8 = 8 by omega, hb]⟩
  refine follows_readField (.intro x x' hx) fun a _ => ⟨_, hbits, follows_needs fun flags _ => ?_⟩
  exact follows_next (.intro _ x' rfl)

include hx in
theorem follows_pExtchk : Follows m (exec .pExtchk u) (exec .pExtchk (withHdl m x x' u)) := by
  have hsame : (withHdl m x x' u).wk.extFlags = u.wk.extFlags := rfl
  rw [exec, exec, execPExtchk, execPExtchk, hsame]
  cases u.wk.extFlags with
  | error r => intro t ht; cases ht
  | ok flags => exact follows_check (by decide) (.intro x x' hx) (.intro x x' hx)

include hm hs hx in
/-- The forwarded range lies behind byte 8. -/
theorem follows_pPayloadFwd (hcode : phaseCode .pPayloadFwd = u.phase) :
    Follows m (exec .pPayloadFwd u) (exec .pPayloadFwd (withHdl m x x' u)) := by
  intro t ht
  obtain ⟨halign, hpos⟩ := hs.payload_pos hcode.symm
  obtain ⟨bytes, hr, rfl⟩ := execPPayloadFwd_next ht
  have hsame : Memory.range m (u.pos / 8) (u.len - u.pos / 8) = .ok bytes :=
    (range_congr fun a ha => hm.other a (by omega)).trans hr
  exact ⟨_, execPPayloadFwd_of_range (u := withHdl m x x' u) (pos_of_aligned halign) hsame, .intro x x' hx⟩

include hx in
/-- The verdict of a start parse commits the other header-data-length too. -/
theorem follows_terminateOk (hstart : u.cmdStart = true) (hopt : u.wkHasOpt = true) :
    Follows m (terminateOk u) (terminateOk (withHdl m x x' u)) := by
  intro t ht
  rcases terminateOk_next ht with ⟨hno, -⟩ | ⟨-, hc, hok, rfl⟩
  · exact absurd (hstart.symm.trans hno) (by decide)
  · obtain ⟨-, -, -, hid, -⟩ := commitHeader_ok hok
    have hmem := hasOptionalHeader_eq_true_iff.mp ((wkHasOpt_of_streamId hid).symm.trans hopt)
    obtain ⟨hval, hset⟩ := commitHeader_setHdl hok hmem
    obtain ⟨b, rfl⟩ := exists_val (hx.trans hval)
    exact ⟨_, terminateOk_of_start (s := withHdl m (.val b) x' u) hstart (hset b), .intro (.val b) (.val b) hx⟩

include hs hx in
theorem follows_pCommit (hcode : phaseCode .pCommit = u.phase) :
    Follows m (exec .pCommit u) (exec .pCommit (withHdl m x x' u)) := by
  have hopt := hs.hasOpt (by rw [State.past, ← hcode]; decide)
  have hok : Follows m (terminate .ok .none u) (terminate .ok .none (withHdl m x x' u)) :=
    follows_terminateOk hx hs.start hopt
  have hlate : Follows m (terminate .malformed .forbiddenPtsDts u)
      (terminate .malformed .forbiddenPtsDts (withHdl m x x' u)) :=
    follows_next ((Twin.intro x x' hx).failed _ _)
  exact follows_ite (follows_needs fun _ _ => follows_ite (follows_needs fun _ _ => follows_ite hlate hok) hok) hok

include hm hs hx in
/-- Every phase of the parse does the same in both. -/
theorem follows_phase {i : Instr} (hport : portOf i = .phase) (hcode : phaseCode i = u.phase) :
    Follows m (exec i u) (exec i (withHdl m x x' u)) := by
  have hclear {n : Nat} (hi : 0 < (phaseCode i).toNat ∧ (phaseCode i).toNat < 0x20)
      (hn : fieldOffset (phaseCode i).toNat + n ≤ 64 ∨ 72 ≤ fieldOffset (phaseCode i).toNat) :
      u.pos + n ≤ 64 ∨ 72 ≤ u.pos := by rwa [hs.pos_eq_fieldOffset hcode hi]
  cases i with
  | parseS | parseC | inWrite | regRead | classify | reset | readBit | readBits | bytesLeft | current | isAudioStream
  | isVideoStream | isPaddingStream | hasOptionalHeader | sidPsm | sidPadding | sidPriv2 | sidEcm | sidEmm | sidDsmcc
  | sidH2221e | sidPsd | sidAudio | sidVideo | sidOther | pdfNone | pdfForbidden | pdfPts | pdfPtsDts => cases hport
  | idle => exact follows_next (.intro x x' hx)
  | pSid | pScr | pPri | pDai | pCpy | pOoc | pEscrf | pEsrf | pDsmf | pAcif | pCrcf | pExtf
  | pPtsHi | pPtsMid | pPtsLo | pDtsHi | pDtsMid | pDtsLo =>
    exact follows_field hm (.intro x x' hx) (hclear (by decide) (by decide)) fun _ => follows_next (.intro x x' hx)
  | pStart | pFixed | pPdf | pDtsPfx =>
    exact follows_field hm (.intro x x' hx) (hclear (by decide) (by decide))
      fun _ => follows_check (by decide) (.intro x x' hx) (.intro x x' hx)
  | pPtsM0 | pPtsM1 | pDtsM0 | pDtsM1 =>
    exact follows_marker hm (.intro x x' hx) (hclear (by decide) (by decide)) (.intro x x' hx)
      (follows_next (.intro x x' hx))
  | pLen =>
    exact follows_field hm (.intro x x' hx) (hclear (by decide) (by decide))
      fun _ => follows_needs fun _ _ => follows_next (.intro x x' hx)
  | pHdl => exact follows_pHdl hm hs hx hcode
  | pPtsPfx =>
    exact follows_field hm (.intro x x' hx) (hclear (by decide) (by decide))
      fun _ => follows_needs fun _ _ => follows_check (by decide) (.intro x x' hx) (.intro x x' hx)
  | pPtsM2 =>
    exact follows_marker hm (.intro x x' hx) (hclear (by decide) (by decide)) (.intro x x' hx) <|
      follows_needs fun _ _ => follows_needs fun _ _ => follows_needs fun _ _ => follows_needs fun _ _ =>
        follows_next (.intro x x' hx)
  | pDtsM2 =>
    exact follows_marker hm (.intro x x' hx) (hclear (by decide) (by decide)) (.intro x x' hx) <|
      follows_needs fun _ _ => follows_needs fun _ _ => follows_needs fun _ _ => follows_next (.intro x x' hx)
  | pExtchk => exact follows_pExtchk hx
  | pPayloadPad =>
    exact follows_needs fun _ _ => follows_check (by decide) (.intro x x' hx) (.intro x x' hx)
  | pPayloadFwd => exact follows_pPayloadFwd hm hs hx hcode
  | pCommit => exact follows_pCommit hs hx hcode
  | phaseReserved => intro t ht; cases ht

end

/-! ## Steps and runs -/

section
variable {m : Memory} {u v t : State}

theorem fetch_of_nil (h : u.turns = []) : fetch u = fetchPhase u := by
  rw [fetch_of_pespTurn (pespTurn_of_nil h), dequeued_of_nil h]

/-- A step of a parse left to itself runs the phase that PHASE selects. -/
theorem phase_of_step (hturns : u.turns = []) (h : step u = .next t) :
    ∃ i, fetchPhase u = .run i u ∧ portOf i = .phase ∧ Selected i u ∧ exec i u = .next t := by
  obtain ⟨i, s', hf, ht⟩ := step_next h
  rw [fetch_of_nil hturns] at hf
  obtain ⟨rfl, hport, hsel⟩ := fetchPhase_run hf
  exact ⟨i, hf, hport, hsel, ht⟩

/-- PHASE selects the same phase in both parses. -/
theorem fetchPhase_withHdl {i : Instr} (x x' : Poisonable Byte) (h : fetchPhase u = .run i u) :
    fetchPhase (withHdl m x x' u) = .run i (withHdl m x x' u) := by
  unfold fetchPhase at h
  split at h
  · rename_i b hb
    obtain ⟨hd, -⟩ := fetchWord_run h
    rw [fetchPhase, show phaseByte (withHdl m x x' u) = .ok b from hb]
    exact fetchWord_of_decode hd
  · cases h

theorem StartParse.step (h : StartParse u) (hstep : step u = .next t) : StartParse t := by
  obtain ⟨i, -, hport, hsel, ht⟩ := phase_of_step h.turns hstep
  have hm := phaseMove_of_exec ((encode_port u.cfg i).trans hport) ht
  obtain ⟨hcfg, hstart, -, -, hturns, -, hbuf⟩ := phaseMove_frame hm
  exact ⟨hturns.trans h.turns, hstart.trans h.start, progressInv_phaseMove h hsel hm,
    hbuf.symm ▸ hcfg.symm ▸ h.streamId, hasOpt_phaseMove h hsel ht hm⟩

/-- A step of a parse is followed by its twin. -/
theorem follows_step (hm : WritesByte8 u.inBuf m) (hs : StartParse u) (hv : Twin m u v) (h : step u = .next t) :
    ∃ t', step v = .next t' ∧ Twin m t t' := by
  obtain ⟨x, x', hx⟩ := hv
  obtain ⟨i, hf, hport, ⟨hcode, -⟩, hexec⟩ := phase_of_step hs.turns h
  have hfetch := (fetch_of_nil (u := withHdl m x x' u) hs.turns).trans (fetchPhase_withHdl x x' hf)
  rw [step_of_fetch hfetch]
  exact follows_phase hm hs hx hport hcode t hexec

/-- Twins run side by side. -/
theorem run_twin {n : Nat} (hm : WritesByte8 u.inBuf m) (hs : StartParse u) (hv : Twin m u v)
    (h : core.run n u = .next t) : ∃ t', core.run n v = .next t' ∧ Twin m t t' := by
  induction n generalizing u v with
  | zero =>
    obtain rfl := Host.Outcome.next.inj h
    exact ⟨v, rfl, hv⟩
  | succ n ih =>
    simp only [Host.Core.run] at h
    split at h
    · rename_i w hw
      obtain ⟨w', hw', htwin⟩ := follows_step hm hs hv hw
      obtain ⟨hbuf, -⟩ := Progress.range_of_step (pespTurn_of_nil hs.turns) hw
      obtain ⟨t', ht', hend⟩ := ih (hbuf ▸ hm) (hs.step hw) htwin h
      refine ⟨t', ?_, hend⟩
      rw [Nat.add_comm]
      exact (runs_one hw' n).trans ht'
    · cases h
    · cases h

end

/-- Settles O59: the two parses begin as twins. -/
theorem headerDataLengthIsNotUsed : Obligations.HeaderDataLengthIsNotUsed := by
  unfold Obligations.HeaderDataLengthIsNotUsed
  intro s t len id b hturns hread hopt hrun
  have hs : StartParse (accept true len s) :=
    ⟨hturns, rfl, progressInv_accept true len s, ⟨id, hread, hopt⟩, fun h => absurd h (by simp [Phase.code])⟩
  obtain ⟨_, ht', ⟨x, x', -⟩⟩ := run_twin (u := accept true len s) (writesByte8_write s.inBuf b) hs
    (.intro .poison .poison rfl) hrun
  exact ⟨x, x', ht'⟩

end Sys2Proof.Proofs.HeaderDataLength
end

section
/-! IDLE and the results that stand in it (60_exceptions.md R260, R266; 70_reset_and_hazards.md R296): what a step can do
from IDLE, the only step that leaves it, and what a step keeps of a parse that is done. -/

namespace Sys2Proof.Proofs.Results
open Sys2Proof.Machine Sys2Proof.Proofs.Moves Sys2Proof.Proofs.Turns Sys2Proof.Proofs.Frames Sys2Proof.Proofs.Invariant
open Sys2Proof.Proofs.Payload

/-! ## Steps from IDLE -/

/-- In IDLE a turn of PESP changes nothing but the list of turns. -/
theorem phaseMove_of_idle {i : Instr} {s t : State} (hp : s.phase = Phase.idle.code) (hs : Selected i s)
    (hm : PhaseMove i s t) : t = s := by
  obtain ⟨hcode, -⟩ := hs
  rw [hp] at hcode
  cases hm with
  | idles _ ht => exact ht
  | decodes n w p hd _ _ =>
    obtain ⟨-, -, hlo, -⟩ := decodes_phases hd
    exact absurd hlo (hcode ▸ by decide)
  | fails n w r c hf _ _ _ _ _ =>
    rcases hf with ⟨hlo, -⟩ | rfl | ⟨rfl, -⟩
    · exact absurd hlo (hcode ▸ by decide)
    · exact absurd hcode (by decide)
    · exact absurd hcode (by decide)
  | pads _ hi _ _ | forwards _ hi _ | commits _ hi _ _ _ _ | continues hi _ _ =>
    subst hi
    exact absurd hcode (by decide)

/-- A step from IDLE is a turn of PESP that changes nothing but the list of turns, or a move of the host. -/
theorem step_of_idle {s t : State} (h : s.Inv) (hp : s.phase = Phase.idle.code) (hstep : step s = .next t) :
    t = dequeued s ∨
      ∃ w i, s.turns.head? = some (.host w) ∧ decode s.cfg w = .ok i ∧ HostMove i (dequeued s) t := by
  cases stepMove_of_step hstep with
  | pesp i _ hs hm => exact .inl (phaseMove_of_idle (s := dequeued s) hp hs hm)
  | host w i ht hd hm => exact .inr ⟨w, i, ht, hd, hm⟩
  | unit w i ht _ =>
    obtain ⟨-, -, -, ⟨-, -, -, hturns⟩, -⟩ := h
    exact absurd (List.all_eq_true.mp hturns _ (List.mem_of_mem_head? ht)) Bool.false_ne_true

/-- Of the host's moves from IDLE only an accepted command goes to another phase (42_header_parser.md R159). -/
theorem command_of_leavesIdle {i : Instr} {s t : State} (hp : s.phase = Phase.idle.code) (hm : HostMove i s t)
    (hne : t.phase ≠ Phase.idle.code) : ∃ len, (i = .parseS len ∨ i = .parseC len) ∧ len ≤ s.cfg.maxLen := by
  cases hm with
  | commandAccepted _ len hi _ hl _ => exact ⟨len, hi, hl⟩
  | resets _ ht => subst ht; exact absurd rfl hne
  | commandIgnored _ _ _ ht | writeIgnored _ _ _ ht | writes _ _ _ _ _ ht | answers _ ht =>
    subst ht
    exact absurd hp hne

/-- Settles O38: the turn of PESP in IDLE, and the moves of the host from IDLE. -/
theorem idleIsLeftOnlyByACommand : Obligations.IdleIsLeftOnlyByACommand := by
  unfold Obligations.IdleIsLeftOnlyByACommand
  refine ⟨fun s => rfl, fun s t h hp hstep hne => ?_⟩
  rcases step_of_idle h hp hstep with rfl | ⟨w, i, ht, hd, hm⟩
  · exact absurd hp hne
  · obtain ⟨rest, hrest⟩ := List.head?_eq_some_iff.mp ht
    obtain ⟨len, rfl | rfl, hl⟩ := command_of_leavesIdle (s := dequeued s) hp hm hne
    · exact ⟨w, rest, len, hrest, .inl hd, hl⟩
    · exact ⟨w, rest, len, hrest, .inr hd, hl⟩

/-! ## Results -/

/-- DONE = 1 stands only in IDLE (10_state.md R31, R32). -/
theorem idle_of_done {s : State} (h : s.Inv) (hd : s.status.done = true) : s.phase = Phase.idle.code := by
  by_contra hp
  have hdone := congrArg Status.done (running_of_inv h hp).status
  exact Bool.false_ne_true (hdone.symm.trans hd)

/-- The result registers of `t` are those of `s`. -/
def ResultsKept (s t : State) : Prop :=
  t.status = s.status ∧ t.endPos = s.endPos ∧ t.consumed = s.consumed ∧ t.feedOffset = s.feedOffset ∧
    t.feedLen = s.feedLen ∧ t.hdr = s.hdr ∧ t.cmdStart = s.cmdStart ∧ t.len = s.len

/-- Of the host's moves only an accept and RESET write the result registers. -/
theorem hostMove_results {i : Instr} {s t : State} (h : HostMove i s t) (hi : i ≠ .reset) :
    (t.status.done = false ∧ t.status.busy = true) ∨ ResultsKept s t := by
  cases h with
  | resets hr _ => exact absurd hr hi
  | commandAccepted _ _ _ _ _ ht => subst ht; exact .inl ⟨rfl, rfl⟩
  | commandIgnored _ _ _ ht | writeIgnored _ _ _ ht | writes _ _ _ _ _ ht | answers _ ht =>
    subst ht
    exact .inr ⟨rfl, rfl, rfl, rfl, rfl, rfl, rfl, rfl⟩

/-- Settles O57: with DONE = 1 PESP is IDLE, and its results change by a move of the host alone. -/
theorem resultsHoldUntilTheNextAccept : Obligations.ResultsHoldUntilTheNextAccept := by
  unfold Obligations.ResultsHoldUntilTheNextAccept
  intro s t h hdone hstep hr
  rcases step_of_idle h (idle_of_done h hdone) hstep with rfl | ⟨w, i, ht, hd, hm⟩
  · exact .inr ⟨rfl, rfl, rfl, rfl, rfl, rfl, rfl, rfl⟩
  · exact hostMove_results (s := dequeued s) hm (ne_reset_of_turn ht hd hr)

end Sys2Proof.Proofs.Results
end

section
/-! The commit of a start parse with an optional header (60_exceptions.md R256; 10_state.md R35 to R39, R47 to R51), from
a working header whose fields hold values. -/

namespace Sys2Proof.Proofs.FullCommit
open Sys2Proof.Machine Sys2Proof.Proofs.Commit Sys2Proof.Proofs.Invariant Sys2Proof.Proofs.PhaseRuns
open Sys2Proof.Proofs.Stops

/-- The timestamps that follow the flags (30_encoding.md R86). -/
theorem hasPts_eq : ∀ f : BitVec 2, (timestampFields f).hasPts = decide (f = 0b10 ∨ f = 0b11) := by decide

theorem hasDts_eq : ∀ f : BitVec 2, (timestampFields f).hasDts = decide (f = 0b11) := by decide

/-- A timestamp is committed where its flags announce it, and is POISON elsewhere (10_state.md R50, R51). -/
theorem timestamp_committed {α : Type} {r : RegName} {v : Poisonable α} {b : Bool} {p : Prop} [Decidable p]
    (hb : b = decide p) (h : p → v.isVal = true) :
    (if b = true then (valueOf r v).map .val else pure .poison) = .ok (if p then v else .poison) := by
  subst hb
  by_cases hp : p
  · obtain ⟨x, rfl⟩ := exists_val (h hp)
    simp only [hp, decide_true, if_true]
    rfl
  · simp only [hp, decide_false, Bool.false_eq_true, if_false]
    rfl

/-- HDR_FLAGS2, whose low bits are the six extension flags side by side (10_state.md R49). -/
theorem flags2_append : ∀ (f : BitVec 2) (e5 e4 e3 e2 e1 e0 : BitVec 1),
    (f ++ (e5 ++ e4 ++ e3 ++ e2 ++ e1 ++ e0) : Byte) = f ++ e5 ++ e4 ++ e3 ++ e2 ++ e1 ++ e0 := by decide

theorem flags2_of_val {w : Wk} {f : BitVec 2} {escr esRate dsm aci crc ext : BitVec 1} (hf : w.ptsDtsFlags = .val f)
    (he : w.extFlags = .ok (escr ++ esRate ++ dsm ++ aci ++ crc ++ ext)) :
    w.flags2 = .ok (f ++ escr ++ esRate ++ dsm ++ aci ++ crc ++ ext) := by
  rw [Wk.flags2, hf, he, ← flags2_append]
  rfl

/-- Settles O37: the registers of the commit, the flag bytes and the timestamps from the working header. -/
theorem commitWithOptionalHeader : Obligations.CommitWithOptionalHeader := by
  unfold Obligations.CommitWithOptionalHeader
  intro s sc id pl fx scr pri dai cpy ooc f e5 e4 e3 e2 e1 e0 hdl hi mid lo hi' mid' lo' pts dts hs hopt hne hwk
    hpts hdts
  cases s
  obtain rfl := hwk
  rw [execPCommit_of_optional hs rfl hopt rfl hne (commitHeader_of_optional rfl rfl hopt rfl rfl (flags2_of_val rfl rfl)
    rfl rfl (timestamp_committed (hasPts_eq f) hpts) (timestamp_committed (hasDts_eq f) hdts))]
  simp only [committed, endParse, Status.withHeader, hasPts_eq, hasDts_eq, hasOptionalHeader_eq_true_iff.mpr hopt]
  rfl

end Sys2Proof.Proofs.FullCommit
end

section
/-! Which phase fails with which cause, and where END_POS then is (60_exceptions.md R250 to R253): one relation with a
row per kind of failure, and what its rows say of the parse under the invariant. -/

namespace Sys2Proof.Proofs.Failures
open Sys2Proof.Machine Sys2Proof.Proofs.Moves Sys2Proof.Proofs.Turns Sys2Proof.Proofs.Frames Sys2Proof.Proofs.Invariant
open Sys2Proof.Proofs.Stops Sys2Proof.Proofs.Steps Sys2Proof.Proofs.Progress Sys2Proof.Proofs.Payload
open Sys2Proof.Proofs.Paths Sys2Proof.Laws.Shape

/-- The position just past the field that phase `i` reads (30_encoding.md R82). -/
def fieldEnd (i : Instr) : Nat := fieldOffset (phaseCode i).toNat + fieldWidth (phaseCode i).toNat

/-- The failures, one row per kind: phase `i`, run in `s`, ends the parse with cause `c` and END_POS = `e`. -/
inductive Fails (s : State) : Instr → Cause → Nat → Prop
  | short {i : Instr} (hi : 0 < (phaseCode i).toNat ∧ (phaseCode i).toNat < 0x20) : Fails s i .shortField s.pos
  | check {i : Instr} {c : Cause} (hi : ((phaseCode i).toNat, c, fieldEnd i) ∈ checkRows) :
      Fails s i c (s.pos + fieldWidth (phaseCode i).toNat)
  | extension : Fails s .pExtchk .extFlagSet s.pos
  | padding : Fails s .pPayloadPad .shortPadding s.pos
  | late (hs : s.cmdStart = true) (hopt : s.wkHasOpt = true) (hf : s.wk.ptsDtsFlags = .val 0b01) :
      Fails s .pCommit .forbiddenPtsDts s.pos

/-- Phase `i` has led from `s` to `t` without a failure, or `t` records one. -/
abbrev Verdict (s : State) (i : Instr) (t : State) : Prop :=
  t.status.result = .ok ∨ Fails s i t.status.cause t.endPos

/-! ## The phases -/

section
variable {s t : State} {i : Instr}

/-- A phase that reads a field goes on as `k` does, or finds it short. -/
theorem verdict_of_readField {n : Nat} {k : Nat → State → Out} (h : readField n s k = .next t)
    (hk : ∀ v, k v (s.advance n) = .next t → Verdict s i t)
    (hi : 0 < (phaseCode i).toNat ∧ (phaseCode i).toNat < 0x20 := by decide) : Verdict s i t := by
  rcases readField_next h with ⟨-, rfl⟩ | ⟨-, -, h⟩
  · exact .inr (.short hi)
  · exact hk _ h

/-- A check just past the field fails with the cause of the phase's row, or goes on. -/
theorem verdict_of_check {p : Prop} [Decidable p] {c : Cause} {w : Wk} {v : State}
    (h : (if p then terminate .malformed c ((s.advance (fieldWidth (phaseCode i).toNat)).setWk w) else .next v) =
      .next t) (hv : v.status.result = .ok)
    (hi : ((phaseCode i).toNat, c, fieldEnd i) ∈ checkRows := by decide) : Verdict s i t := by
  split at h
  · obtain rfl := Host.Outcome.next.inj h
    exact .inr (.check hi)
  · obtain rfl := Host.Outcome.next.inj h
    exact .inl hv

/-- A phase that checks a marker goes on as `k` does, or fails with the cause of its row. -/
theorem verdict_of_markerPhase {c : Cause} {k : State → Out} (h : markerPhase c k s = .next t)
    (hk : k (s.advance 1) = .next t → t.status.result = .ok)
    (hi : fieldWidth (phaseCode i).toNat = 1 ∧ ((phaseCode i).toNat, c, fieldEnd i) ∈ checkRows := by decide)
    (hr : 0 < (phaseCode i).toNat ∧ (phaseCode i).toNat < 0x20 := by decide) : Verdict s i t := by
  obtain ⟨hone, hrow⟩ := hi
  rcases markerPhase_next h with ⟨-, rfl⟩ | ⟨-, -, rfl⟩ | ⟨-, -, h⟩
  · exact .inr (.short hr)
  · exact .inr (show Fails s i c (s.pos + 1) from hone ▸ .check hrow)
  · exact .inl (hk h)

theorem verdict_pExtchk (hok : s.status.result = .ok) (h : exec .pExtchk s = .next t) : Verdict s .pExtchk t := by
  simp only [exec, execPExtchk] at h
  split at h
  · cases h
  · split at h
    · obtain rfl := Host.Outcome.next.inj h
      exact .inr .extension
    · obtain rfl := Host.Outcome.next.inj h
      exact .inl hok

theorem verdict_pPayloadPad (hok : s.status.result = .ok) (h : exec .pPayloadPad s = .next t) :
    Verdict s .pPayloadPad t := by
  obtain ⟨n, -, h⟩ := needs_next (show needs _ _ _ = _ from h)
  split at h
  · obtain rfl := Host.Outcome.next.inj h
    exact .inr .padding
  · obtain rfl := Host.Outcome.next.inj h
    exact .inl hok

theorem result_of_terminateOk (h : terminateOk s = .next t) : t.status.result = .ok := by
  rcases terminateOk_next h with ⟨-, rfl⟩ | ⟨-, _, -, rfl⟩ <;> rfl

theorem verdict_pCommit (h : exec .pCommit s = .next t) : Verdict s .pCommit t := by
  simp only [exec, execPCommit] at h
  split at h
  · rename_i hs
    obtain ⟨id, hid, h⟩ := needs_next h
    split at h
    · rename_i hopt
      obtain ⟨f, hf, h⟩ := needs_next h
      split at h
      · rename_i hforbidden
        obtain rfl := Host.Outcome.next.inj h
        exact .inr (.late hs ((wkHasOpt_of_streamId hid).trans hopt) (hforbidden ▸ hf))
      · exact .inl (result_of_terminateOk h)
    · exact .inl (result_of_terminateOk h)
  · exact .inl (result_of_terminateOk h)

/-- A phase that answers a next state goes on, ends the parse OK, or fails as one of the rows says. -/
theorem verdict_of_exec (hok : s.status.result = .ok) (hport : portOf i = .phase) (h : exec i s = .next t) :
    Verdict s i t := by
  cases i with
  | parseS | parseC | inWrite | regRead | classify | reset | readBit | readBits | bytesLeft | current | isAudioStream
  | isVideoStream | isPaddingStream | hasOptionalHeader | sidPsm | sidPadding | sidPriv2 | sidEcm | sidEmm | sidDsmcc
  | sidH2221e | sidPsd | sidAudio | sidVideo | sidOther | pdfNone | pdfForbidden | pdfPts | pdfPtsDts => cases hport
  | idle =>
    obtain rfl := Host.Outcome.next.inj h
    exact .inl hok
  | pSid | pScr | pPri | pDai | pCpy | pOoc | pEscrf | pEsrf | pDsmf | pAcif | pCrcf | pExtf
  | pPtsHi | pPtsMid | pPtsLo | pDtsHi | pDtsMid | pDtsLo =>
    refine verdict_of_readField h fun v hv => .inl ?_
    obtain rfl := Host.Outcome.next.inj hv
    exact hok
  | pPtsM0 | pPtsM1 | pDtsM0 | pDtsM1 =>
    refine verdict_of_markerPhase h fun hk => ?_
    obtain rfl := Host.Outcome.next.inj hk
    exact hok
  | pStart | pFixed | pDtsPfx => exact verdict_of_readField h fun v hv => verdict_of_check hv hok
  | pLen | pHdl =>
    refine verdict_of_readField h fun v hv => ?_
    obtain ⟨x, -, hv⟩ := needs_next hv
    obtain rfl := Host.Outcome.next.inj hv
    exact .inl hok
  | pPdf => exact verdict_of_readField h fun v hv => verdict_of_check hv hok
  | pPtsPfx =>
    refine verdict_of_readField h fun v hv => ?_
    obtain ⟨f, -, hv⟩ := needs_next hv
    exact verdict_of_check hv hok
  | pPtsM2 =>
    refine verdict_of_markerPhase h fun hk => ?_
    obtain ⟨hi, -, hk⟩ := needs_next hk
    obtain ⟨mid, -, hk⟩ := needs_next hk
    obtain ⟨lo, -, hk⟩ := needs_next hk
    obtain ⟨f, -, hk⟩ := needs_next hk
    obtain rfl := Host.Outcome.next.inj hk
    exact hok
  | pDtsM2 =>
    refine verdict_of_markerPhase h fun hk => ?_
    obtain ⟨hi, -, hk⟩ := needs_next hk
    obtain ⟨mid, -, hk⟩ := needs_next hk
    obtain ⟨lo, -, hk⟩ := needs_next hk
    obtain rfl := Host.Outcome.next.inj hk
    exact hok
  | pExtchk => exact verdict_pExtchk hok h
  | pPayloadPad => exact verdict_pPayloadPad hok h
  | pPayloadFwd =>
    obtain ⟨bytes, -, rfl⟩ := execPPayloadFwd_next h
    exact .inl hok
  | pCommit => exact verdict_pCommit h
  | phaseReserved => cases h

end

/-! ## Turns of PESP -/

/-- A turn of PESP runs the phase that PHASE selects. -/
theorem exec_of_pespTurn {s t : State} (ht : s.pespTurn = true) (h : step s = .next t) :
    ∃ i, portOf i = .phase ∧ Selected i (dequeued s) ∧ exec i (dequeued s) = .next t := by
  obtain ⟨i, u, hf, hexec⟩ := step_next h
  obtain ⟨rfl, hport, hsel⟩ := fetchPhase_run ((fetch_of_pespTurn ht).symm.trans hf)
  exact ⟨i, hport, hsel, hexec⟩

/-- A turn of PESP in a running parse that ends with another result than OK is one of the failures. -/
theorem fails_of_step {s t : State} (h : s.Inv) (ht : s.pespTurn = true) (hne : s.phase ≠ Phase.idle.code)
    (hstep : step s = .next t) (hres : t.status.result ≠ .ok) :
    ∃ i, phaseCode i = s.phase ∧ Fails (dequeued s) i t.status.cause t.endPos := by
  obtain ⟨i, hport, ⟨hcode, -⟩, hexec⟩ := exec_of_pespTurn ht hstep
  have hok : s.status.result = .ok := by rw [(running_of_inv h hne).status]; rfl
  exact ⟨i, hcode, (verdict_of_exec (s := dequeued s) hok hport hexec).resolve_left hres⟩

/-! ## What the rows say under the invariant -/

theorem offsetRows_of_code : ∀ c : BitVec 6, 0 < c.toNat ∧ c.toNat < 0x20 →
    (c.toNat, fieldOffset c.toNat) ∈ offsetRows := by decide

theorem checkRows_sound : ∀ r ∈ checkRows, 0 < r.1 ∧ r.1 < 0x20 ∧ r.2.1.resultOf = .malformed := by decide

/-- A start parse that reads a field stands at the field's offset. -/
theorem pos_of_code {s : State} (h : s.Inv) (hp : 0 < s.phase.toNat ∧ s.phase.toNat < 0x20) :
    s.pos = fieldOffset s.phase.toNat :=
  pos_of_offsetRow h (offsetRows_of_code s.phase hp) rfl

/-- P_EXTCHK stands behind the flag cluster and the timestamps (30_encoding.md R92). -/
theorem pos_of_pExtchk {s : State} (h : s.Inv) (hp : s.phase = Phase.pExtchk.code) :
    s.pos = 8 * headerBytes true s.wkFields := by
  obtain ⟨-, -, hpos⟩ := startParse_of_inv h (hp ▸ by decide) (hp ▸ by decide)
  rw [hpos, State.phasePos, if_pos (.inl hp), wkHasOpt_of_inv h (hp ▸ by decide) (hp ▸ by decide)]

/-- Under FailFast the forbidden flags do not reach P_COMMIT (42_header_parser.md R171). -/
theorem lateVerdict_of_forbidden {s : State} (h : s.Inv) (hp : s.phase = Phase.pCommit.code) (hs : s.cmdStart = true)
    (hopt : s.wkHasOpt = true) (hf : s.wk.ptsDtsFlags = .val 0b01) : s.cfg.forbiddenPolicy = .lateVerdict := by
  have hpast {k : Nat} (hk : k < 0x22) : s.past k := by rw [State.past, hp]; exact hk
  obtain ⟨-, hdec⟩ := decodedInv_of_start h hs (hp ▸ by decide)
  obtain ⟨⟨-, -, -, -, -, -, -, hpolicy, -⟩, -⟩ := hdec hopt (hpast (by decide))
  cases hc : s.cfg.forbiddenPolicy with
  | lateVerdict => rfl
  | failFast => exact absurd hf (hpolicy (hpast (by decide)) hc)

/-- A parse that ends in P_PAYLOAD is a padding stream's, which stands behind the fixed part (43_payload_result.md
R224). -/
theorem pos_of_endedPayload {s t : State} (h : s.Inv) (ht : s.pespTurn = true) (hp : s.phase = Phase.pPayload.code)
    (hs : s.cmdStart = true) (hstep : step s = .next t) (hidle : t.phase = Phase.idle.code) : s.pos = 48 := by
  obtain ⟨id, hid, hpos, -⟩ := payload_offset h hs hp
  by_cases hpad : id = s.cfg.streamIds.paddingStream
  · exact hpos (hpad ▸ by simp [StreamIdTable.noHdr])
  · obtain ⟨bytes, -, rfl⟩ := execPPayloadFwd_next ((step_of_forwarding ht hp hs hid hpad).symm.trans hstep)
    exact absurd hidle (show Phase.pCommit.code ≠ Phase.idle.code by decide)

section
variable {s : State} {i : Instr} {c : Cause} {e : Nat} (h : s.Inv) (hcode : phaseCode i = s.phase) (hf : Fails s i c e)
include h hcode hf

theorem malformed_row (hc : c.resultOf = .malformed) :
    (s.phase.toNat, c, e) ∈ checkRows ∨
      (s.phase = Phase.pCommit.code ∧ c = .forbiddenPtsDts ∧ s.cfg.forbiddenPolicy = .lateVerdict) := by
  cases hf with
  | check hi =>
    obtain ⟨hlo, hhi, -⟩ := checkRows_sound _ hi
    rw [fieldEnd, hcode] at hi
    rw [hcode] at hlo hhi ⊢
    exact .inl (pos_of_code h ⟨hlo, hhi⟩ ▸ hi)
  | late hs hopt hflags => exact .inr ⟨hcode.symm, rfl, lateVerdict_of_forbidden h hcode.symm hs hopt hflags⟩
  | short | extension | padding => cases hc

theorem unsupported_row (hc : c.resultOf = .unsupported) :
    s.phase = Phase.pExtchk.code ∧ c = .extFlagSet ∧ e = 8 * headerBytes true s.wkFields := by
  cases hf with
  | extension => exact ⟨hcode.symm, rfl, pos_of_pExtchk h hcode.symm⟩
  | check hi =>
    obtain ⟨-, -, hmal⟩ := checkRows_sound _ hi
    cases hmal.symm.trans hc
  | short | padding | late => cases hc

theorem shortField_row (hc : c = .shortField) : (s.phase.toNat, e) ∈ offsetRows := by
  cases hf with
  | short hi =>
    rw [hcode] at hi
    rw [pos_of_code h hi]
    exact offsetRows_of_code s.phase hi
  | check hi =>
    obtain ⟨-, -, hmal⟩ := checkRows_sound _ hi
    cases hmal.symm.trans (congrArg Cause.resultOf hc)
  | extension | padding | late => cases hc

end

theorem shortPadding_row {s : State} {i : Instr} {c : Cause} {e : Nat} (hcode : phaseCode i = s.phase)
    (hf : Fails s i c e) (hc : c = .shortPadding) : s.phase = Phase.pPayload.code ∧ e = s.pos := by
  cases hf with
  | padding => exact ⟨hcode.symm, rfl⟩
  | check hi =>
    obtain ⟨-, -, hmal⟩ := checkRows_sound _ hi
    cases hmal.symm.trans (congrArg Cause.resultOf hc)
  | short | extension | late => cases hc

theorem cause_of_truncated {c : Cause} (hc : c.resultOf = .truncated) : c = .shortField ∨ c = .shortPadding := by
  cases c with
  | shortField => exact .inl rfl
  | shortPadding => exact .inr rfl
  | _ => cases hc

/-- A failure ends a start parse (60_exceptions.md R254). -/
theorem start_of_failure {s t : State} (h : s.Inv) (ht : s.pespTurn = true) (hstep : step s = .next t)
    (hdone : t.status.done = true) (hres : t.status.result ≠ .ok) : s.cmdStart = true := by
  obtain ⟨-, -, -, -, -, ⟨-, hverdict⟩, -⟩ := stepKeepsTheInvariant s t h hstep
  obtain ⟨-, -, hcont, -⟩ := hverdict hdone
  obtain ⟨i, -, hm⟩ := phaseMove_of_step ht hstep
  obtain ⟨-, (hstart : t.cmdStart = s.cmdStart), -⟩ := phaseMove_frame hm
  by_contra hs
  exact hres (hcont (hstart.trans (Bool.eq_false_iff.mpr hs)))

/-- Settles O53: the rows of `Fails`, with the position that the invariant gives each phase. -/
theorem failuresAndTheirPositions : Obligations.FailuresAndTheirPositions := by
  unfold Obligations.FailuresAndTheirPositions
  intro s t h ht hne hstep hidle
  obtain ⟨-, -, hdone, hcause, -⟩ := terminationRecords s t h ht hne hstep hidle
  have hinv := inv_dequeued h
  have hfails := fails_of_step h ht hne hstep
  have hres {r : Result} (hr : t.status.result = r) (hok : r ≠ .ok := by decide) : t.status.result ≠ .ok := hr ▸ hok
  have hkind {c : Cause} (hc : t.status.cause = c) : t.status.result = c.resultOf := hc ▸ hcause.symm
  refine ⟨start_of_failure h ht hstep hdone, fun hr => ?_, fun hr => ?_,
    fun hr => cause_of_truncated (hcause.trans hr), fun hc => ?_, fun hc => ?_⟩
  · obtain ⟨i, hcode, hf⟩ := hfails (hres hr)
    exact malformed_row (s := dequeued s) hinv hcode hf (hcause.trans hr)
  · obtain ⟨i, hcode, hf⟩ := hfails (hres hr)
    obtain ⟨hp, hc, he⟩ := unsupported_row (s := dequeued s) hinv hcode hf (hcause.trans hr)
    refine ⟨hp, hc, he.trans ?_⟩
    change 8 * headerBytes true s.wkFields = _
    cases s.wkFields <;> rfl
  · obtain ⟨i, hcode, hf⟩ := hfails (hres (hkind hc))
    exact shortField_row (s := dequeued s) hinv hcode hf hc
  · obtain ⟨i, hcode, hf⟩ := hfails (hres (hkind hc))
    obtain ⟨hp, he⟩ := shortPadding_row (s := dequeued s) hcode hf hc
    have hs := start_of_failure h ht hstep hdone (hres (hkind hc))
    exact ⟨hp, he.trans (pos_of_endedPayload (s := s) h ht hp hs hstep hidle)⟩

end Sys2Proof.Proofs.Failures
end

section
/-! RESET and what a host sees of a running parse (70_reset_and_hazards.md R290, R292, R296): the reset state is every
state element at its reset value and meets the invariant, and the results of a running parse are POISON to the host. -/

namespace Sys2Proof.Proofs.ResetAndHazards
open Sys2Proof.Machine Sys2Proof.Proofs.Registers Sys2Proof.Proofs.Invariant

/-! ## Reset -/

/-- Settles O18: RESET answers the reset state of the parameters, from any state. -/
theorem resetAction : Obligations.ResetAction := by
  unfold Obligations.ResetAction
  exact fun s => ⟨s.turns, .none, rfl, fun _ => rfl⟩

/-- Settles O43: the reset state has no turn listed, and any parameters it is given are well-formed. -/
theorem resetMeetsTheInvariant : Obligations.ResetMeetsTheInvariant := by
  unfold Obligations.ResetMeetsTheInvariant
  have hreset (c : Config) (hc : c.wf = true) : (State.resetOf c).Inv := inv_reset hc (l := []) rfl
  exact ⟨hreset Config.standard (by decide), hreset⟩

/-! ## Results while a parse runs -/

/-- CONSUMED and the feed registers of a running parse (R296). -/
theorem resultValue_of_busy {s : State} (h : s.status.busy = true) (r : RegName) (v : Poisonable Nat) :
    resultValue s r v = .error r := if_pos h

/-- A BUSY state that meets the invariant runs a parse (10_state.md R31). -/
theorem running_of_busy {s : State} (h : s.Inv) (hb : s.status.busy = true) : Running s := by
  have ⟨_, _, _, ⟨hbusy, _⟩, _⟩ := h
  exact running_of_inv h (of_decide_eq_true (hbusy.symm.trans hb))

/-- No result register of a running parse has a value on the read port. -/
theorem registerValue_of_running {s : State} (h : Running s) {n : BitVec 8} (hlo : 0x05 ≤ n.toNat)
    (hhi : n.toNat ≤ 0x0F) : ∃ r, registerValue s n = .error r := by
  unfold registerValue
  rw [h.hdr]
  generalize n.toNat = k at hlo hhi
  rcases Nat.lt_or_ge k 0x08 with hresult | hheader
  · interval_cases k <;> exact ⟨_, resultValue_of_busy h.busy _ _⟩
  · interval_cases k <;> exact ⟨_, rfl⟩

/-- Settles O10: the result registers of a running parse hold nothing for the host. -/
theorem resultsPoisonWhileBusy : Obligations.ResultsPoisonWhileBusy := by
  unfold Obligations.ResultsPoisonWhileBusy
  intro s h hb n hlo hhi
  obtain ⟨r, hr⟩ := registerValue_of_running (running_of_busy h hb) hlo hhi
  exact ⟨r, readFaults_of_error hr⟩

end Sys2Proof.Proofs.ResetAndHazards
end

section
/-! How many phase steps each path takes (70_reset_and_hazards.md R302): the phase in PHASE and the path, which the
working header selects (30_encoding.md R97), say how many steps a parse has taken since its accept. -/

namespace Sys2Proof.Proofs.StepCounts
open Sys2Proof.Machine Sys2Proof.Proofs.Moves Sys2Proof.Proofs.Turns Sys2Proof.Proofs.Steps Sys2Proof.Proofs.Frames
open Sys2Proof.Proofs.Decoding Sys2Proof.Proofs.Invariant Sys2Proof.Proofs.Results

/-! ## The count of a state -/

/-- The steps a parse takes before P_PAYLOAD: none in a continuation, else those of the header and P_EXTCHK. -/
def headerSteps (s : State) : Nat :=
  if s.cmdStart then
    if s.wkHasOpt then
      match s.wkFields with
      | .noTimestamp => 18
      | .pts => 25
      | .ptsDts => 32
    else 3
  else 0

/-- The steps a running parse has taken since its accept. The PHASE codes before P_EXTCHK count them from P_START on. -/
def stepsTaken (s : State) : Nat :=
  if s.phase = Phase.pCommit.code then headerSteps s + 1
  else if s.phase = Phase.pPayload.code then headerSteps s
  else if s.phase = Phase.pExtchk.code then headerSteps s - 1
  else s.phase.toNat - 1

theorem stepsTaken_accept (start : Bool) (len : Nat) (s : State) : stepsTaken (accept start len s) = 0 := by
  cases start <;> rfl

section
variable {s t : State} {i : Instr} {n : Nat} {w : Wk} {p : Phase}

/-- A header phase that goes on is one step of its path: PHASE rises by one, or it skips what the path leaves out. -/
theorem stepsTaken_decoded (hd : Decodes s i n w p) (hc : s.phase = phaseCode i) (hstart : s.cmdStart = true)
    (h : s.decodedInv) : stepsTaken (decoded s n w p) = stepsTaken s + 1 := by
  have hopt := decodes_wkHasOpt hd
  have hfields := decodes_wkFields hd
  have hpast := wkHasOpt_of_past hd hc h
  have htimes := timestamps_of_past hd hc h
  cases hd with
  | ptsM2None | dtsM2 | extchk =>
    cases hw : s.wkFields <;> simp_all [phaseCode, encode, phaseCodeWord, Phase.code, State.past, decoded, stepsTaken,
      headerSteps, State.timestampsInv, TimestampFields.hasPts, TimestampFields.hasDts]
  | _ =>
    simp_all [phaseCode, encode, phaseCodeWord, Phase.code, State.past, decoded, stepsTaken, headerSteps]

/-- P_PAYLOAD is one step, whichever its branch. -/
theorem stepsTaken_pCommit (hp : s.phase = Phase.pPayload.code) (hp' : t.phase = Phase.pCommit.code)
    (hw : t.wk = s.wk) (hc : t.cfg = s.cfg) (hs : t.cmdStart = s.cmdStart) : stepsTaken t = stepsTaken s + 1 := by
  have hopt : t.wkHasOpt = s.wkHasOpt := by rw [State.wkHasOpt, hw, hc]; rfl
  have hfields : t.wkFields = s.wkFields := by rw [State.wkFields, hw]; rfl
  have hheader : headerSteps t = headerSteps s := by rw [headerSteps, hopt, hfields, hs]; rfl
  rw [stepsTaken, if_pos hp', hheader, stepsTaken, hp, if_neg (by decide), if_pos rfl]

/-! ## Moves of a running parse -/

/-- A header phase runs in a start parse. -/
theorem startParse_of_decodes (h : s.progressInv) (hd : Decodes s i n w p) (hc : phaseCode i = s.phase) :
    s.cmdStart = true ∧ s.decodedInv ∧ s.pos = s.phasePos := by
  obtain ⟨-, -, hlo, hhi⟩ := decodes_phases hd
  obtain ⟨hidle, hpay, hcommit⟩ := headerCode_ne s.phase (hc ▸ hlo) (hc ▸ hhi)
  have hrun := h hidle
  split at hrun
  · rename_i hstart
    obtain ⟨hdec, hpos⟩ := hrun
    exact ⟨hstart, hdec, hpos hcommit⟩
  · rcases hrun with ⟨hp, -⟩ | hp
    · exact absurd hp hpay
    · exact absurd hp hcommit

/-- A move of a running parse ends it or takes it one step on along its path. -/
theorem stepsTaken_phaseMove (h : s.progressInv) (hne : s.phase ≠ Phase.idle.code) (hs : Selected i s)
    (hm : PhaseMove i s t) :
    t.phase = Phase.idle.code ∨ (t.progressInv ∧ stepsTaken t = stepsTaken s + 1) := by
  obtain ⟨hcode, -⟩ := hs
  cases hm with
  | idles hi _ => subst hi; exact absurd hcode.symm hne
  | decodes n w p hd _ ht =>
    subst ht
    obtain ⟨hstart, hdec, hpos⟩ := startParse_of_decodes h hd hcode
    exact .inr ⟨fun _ => (if_pos hstart).mpr
      ⟨decodes_decodedInv hd hcode.symm hdec, fun _ => decodes_pos hd hcode.symm hdec hpos⟩,
      stepsTaken_decoded hd hcode.symm hstart hdec⟩
  | pads n hi _ ht | forwards bytes hi ht =>
    subst hi ht
    exact .inr ⟨progressInv_pCommit h hcode.symm rfl rfl rfl rfl, stepsTaken_pCommit hcode.symm rfl rfl rfl rfl⟩
  | fails _ _ _ _ _ _ _ _ _ ht | commits _ _ _ _ _ ht | continues _ _ ht => subst ht; exact .inl rfl

end

/-! ## Runs -/

/-- `u` is the state `n` steps after the accept of a parse left to itself: the parse runs and has taken `n` steps along
its path, or it has ended. -/
structure OnPath (start : Bool) (n : Nat) (u : State) : Prop where
  turns : u.turns = []
  start : u.cmdStart = start
  progress : u.progressInv
  steps : u.phase ≠ Phase.idle.code → stepsTaken u = n

section
variable {start : Bool} {n : Nat} {u t : State}

theorem onPath_accept {s : State} (ht : s.turns = []) (start : Bool) (len : Nat) :
    OnPath start 0 (accept start len s) :=
  ⟨ht, rfl, progressInv_accept start len s, fun _ => stepsTaken_accept start len s⟩

theorem OnPath.step (h : OnPath start n u) (hstep : step u = .next t) : OnPath start (n + 1) t := by
  obtain ⟨i, hs, hm⟩ := phaseMove_of_step (pespTurn_of_nil h.turns) hstep
  rw [dequeued_of_nil h.turns] at hs hm
  obtain ⟨-, hstart, -, -, hturns, -⟩ := phaseMove_frame hm
  have hend (hidle : t.phase = Phase.idle.code) : OnPath start (n + 1) t :=
    ⟨hturns.trans h.turns, hstart.trans h.start, fun hne => absurd hidle hne, fun hne => absurd hidle hne⟩
  by_cases hne : u.phase = Phase.idle.code
  · exact hend (phaseMove_of_idle hne hs hm ▸ hne)
  · rcases stepsTaken_phaseMove h.progress hne hs hm with hidle | ⟨hprogress, hsteps⟩
    · exact hend hidle
    · exact ⟨hturns.trans h.turns, hstart.trans h.start, hprogress, fun _ => by rw [hsteps, h.steps hne]⟩

theorem OnPath.run {k : Nat} (h : OnPath start n u) (hrun : core.run k u = .next t) : OnPath start (n + k) t := by
  induction k generalizing n u with
  | zero => exact Host.Outcome.next.inj hrun ▸ h
  | succ k ih =>
    simp only [Host.Core.run] at hrun
    split at hrun
    · rename_i v hv
      rw [← Nat.succ_add_eq_add_succ]
      exact ih (h.step hv) hrun
    · cases hrun
    · cases hrun

end

/-- Settles O48: in P_COMMIT the steps taken are those of the header and one for P_PAYLOAD. -/
theorem stepCountsPerPath : Obligations.StepCountsPerPath := by
  unfold Obligations.StepCountsPerPath
  intro s t start len n ht hrun hp
  have hpath := (onPath_accept ht start len).run hrun
  have hsteps : headerSteps t + 1 = 0 + n := (if_pos hp).symm.trans (hpath.steps (hp ▸ by decide))
  rw [Nat.zero_add] at hsteps
  rw [← hsteps, headerSteps, hpath.start]
  cases start with
  | false => rfl
  | true =>
    cases t.wkHasOpt with
    | false => rfl
    | true => cases t.wkFields <;> rfl

end Sys2Proof.Proofs.StepCounts
end
